-- ==== Sys2Proof/Word.lean ====
section
/-!
DEFINITION. The types of the block (spec/00_scope.md R6, spec/30_encoding.md R60 and R61): unsigned bit vectors of
a stated width. Fields, bytes, lanes and rotations of them are in Machine/Bytes.lean.
-/
namespace Sys2Proof

/-- A 4-bit unsigned value (R6). -/
abbrev Nib := BitVec 4

/-- An 8-bit unsigned value (R6). -/
abbrev Byte := BitVec 8

/-- A 16-bit unsigned value; the left byte is the more significant one (R6, R8). -/
abbrev Half := BitVec 16

/-- A 64-bit unsigned value; byte 0 is the most significant byte (R6, R8). -/
abbrev Word := BitVec 64

/-- The operand field `arg` of a command word (R60). -/
abbrev Arg := BitVec 128

/-- A command word `CW` (R60): the opcode in bits 131:128, the operand field in bits 127:0. -/
abbrev CommandWord := BitVec 132

/-- A response word `RW` (R61): the fault code in bits 67:64, the result in bits 63:0. -/
abbrev ResponseWord := BitVec 68

/-- The nine words of a subkey schedule, `sk[0]` to `sk[8]` (R22, R105). -/
abbrev Schedule := Vector Word 9

/-- The eight subkeys that the block path reads, `sk[0]` to `sk[7]` (R22, R124). -/
abbrev RoundKeys := Vector Word 8

end Sys2Proof
end

