-- ==== Sys2Proof/Machine/Bytes.lean ====
section
/-!
DEFINITION. Fields of bit vectors: nibbles, bytes and lanes of a word, and the one rotation the block has
(spec/00_scope.md R7 to R9, spec/20_memory.md R45, spec/42_mix_phi_m_m8.md R95). Big-endian throughout: byte 0 and
lane 0 are the most significant.
-/
namespace Sys2Proof.Machine

/-- `hi(b) = b[7:4]` (R8). -/
def hi (b : Byte) : Nib := b.extractLsb' 4 4

/-- `lo(b) = b[3:0]` (R8). -/
def lo (b : Byte) : Nib := b.extractLsb' 0 4

/-- `left(h) = h[15:8]` (R8). -/
def left (h : Half) : Byte := h.extractLsb' 8 8

/-- `right(h) = h[7:0]` (R8). -/
def right (h : Half) : Byte := h.extractLsb' 0 8

/-- `byte(w, j) = w[63-8j : 56-8j]` (R8). -/
def byte (w : Word) (j : Fin 8) : Byte := w.extractLsb' (56 - 8 * j.val) 8

/-- `word(b0, ..., b7) = b0 ‖ b1 ‖ ... ‖ b7` (R8). -/
def word (b0 b1 b2 b3 b4 b5 b6 b7 : Byte) : Word := b0 ++ b1 ++ b2 ++ b3 ++ b4 ++ b5 ++ b6 ++ b7

/-- Lane `q` of a word is `w[63-16q : 48-16q]` (R98). -/
def lane (w : Word) (q : Fin 4) : Half := w.extractLsb' (48 - 16 * q.val) 16

/-- The word of four lanes, lane 0 first (R98). -/
def ofLanes (h0 h1 h2 h3 : Half) : Word := h0 ++ h1 ++ h2 ++ h3

/-- `rotl8(b) = b[6:0] ‖ b[7]` (R9, R95). -/
def rotl8 (b : Byte) : Byte := b.extractLsb' 0 7 ++ b.extractLsb' 7 1

end Sys2Proof.Machine
end

