-- ==== Sys2Proof/Machine/Operands.lean ====
section
/-!
DEFINITION. Operand and result forms of the commands (spec/30_encoding.md R61, R63): how a half operand is put together
and how a narrow result is placed in `res`. The fields of `arg` are cut in Decode.lean.
-/
namespace Sys2Proof.Machine

/-- The half operand of format H: `h = xl ‖ xr`, the left byte the more significant (R63). -/
def halfOperand (xl xr : Byte) : Half := xl ++ xr

/-- A byte result in `res[7:0]`, zero above (R63). -/
def resByte (b : Byte) : Word := b.setWidth 64

/-- A half result in `res[15:0]`, its left byte in `res[15:8]`, zero above (R63). -/
def resHalf (h : Half) : Word := h.setWidth 64

end Sys2Proof.Machine
end

