-- ==== Sys2Proof/Syntax.lean ====
section
/-!
DEFINITION. The commands of CSCR-CMD 1 (spec/30_encoding.md R62, R64), the six operand formats and the names of the
five faults (spec/60_exceptions.md R151).
-/
namespace Sys2Proof

/-- One constructor per row of the opcode table (R64); the operands are those of R62's formats. -/
inductive Instr where
  /-- `NOP` (R140). -/
  | nop
  /-- `P #x` (R83). -/
  | p (x : Byte)
  /-- `P8 #w` (R84). -/
  | p8 (w : Word)
  /-- `T #w` (R92). -/
  | t (w : Word)
  /-- `PHI #x` (R100). -/
  | phi (x : Byte)
  /-- `M #h` with `h = xl ‖ xr` (R101). -/
  | m (xl xr : Byte)
  /-- `M8 #w` (R102). -/
  | m8 (w : Word)
  /-- `SXOR #a, #b` (R103). -/
  | sxor (a b : Word)
  /-- `KEYLD #k1, #k2` (R108). -/
  | keyld (k1 k2 : Word)
  /-- `RDSK #i` (R109); the field has four bits, its legal values are 0 to 8. -/
  | rdsk (idx : Nib)
  /-- `RND #w` (R117). -/
  | rnd (w : Word)
  /-- `ENC #w` (R121). -/
  | enc (w : Word)
  /-- `DEC #w` (R137). -/
  | dec (w : Word)
  /-- `RDST` (R141). -/
  | rdst
  deriving DecidableEq, Repr

/-- The six operand formats of R62. -/
inductive Format where
  /-- No operand. -/
  | Z
  /-- One byte, in `arg[7:0]`. -/
  | B
  /-- Two bytes, in `arg[15:8]` and `arg[7:0]`. -/
  | H
  /-- One word, in `arg[63:0]`. -/
  | W
  /-- Two words, in `arg[127:64]` and `arg[63:0]`. -/
  | D
  /-- One index, in `arg[3:0]`. -/
  | I
  deriving DecidableEq, Repr

/-- The five faults of R151. In the model a fault of the spec is a next state (Machine/Ops.lean, `raise`), never an
`Outcome.fault`. -/
inductive FaultName where
  /-- `ILLEGAL_OP`: the opcode is `0xE` or `0xF` (R65). -/
  | illegalOp
  /-- `RESERVED_OPERAND`: a must-be-zero bit is 1 (R66). -/
  | reservedOperand
  /-- `BAD_INDEX`: `RDSK` with an index of 9 to 15 (R72). -/
  | badIndex
  /-- `NO_KEY`: a command that reads the key registers while they are unwritten (R31). -/
  | noKey
  /-- `KEY_LOCKED`: `KEYLD` while a key is loaded (R32). -/
  | keyLocked
  deriving DecidableEq, Repr

end Sys2Proof
end

