-- ==== Sys2Proof/Machine/State.lean ====
section
/-!
DEFINITION. The state of the block (spec/10_state.md R20 to R23) beside the two sides of its boundary: the moves the
host has yet to make, and the responses given so far (spec/70_reset_and_hazards.md R173, R177). Plain data.
-/
namespace Sys2Proof.Machine

/-- The status register (R23): bit 0 `KV`, bit 1 `FLT`, bits 5:2 `FC`. Bits 63:6 read as zero and have no storage. -/
structure Status where
  /-- Key valid: `K1`, `K2` and all `SK[i]` are written. -/
  kv : Bool
  /-- Sticky fault: a command has faulted since reset. -/
  flt : Bool
  /-- The code of the first fault since reset, 0 while `flt` is clear. -/
  fc : BitVec 4
  deriving DecidableEq, Repr

/-- One response word (R61): the fault code and the result. -/
structure Response where
  fc : BitVec 4
  res : Word
  deriving DecidableEq, Repr

/-- A move of the host (R173, R177): a command word presented to the block, or a reset. -/
inductive HostMove where
  | command (cw : CommandWord)
  | reset
  deriving DecidableEq, Repr

/-- The machine's state. `k1` to `status` are all the state the block has (R20). `pending` and `responses` are the
model's own (DESIGN CHOICE, logs 1 and 2): the host's coming moves, oldest first, which `step` takes one by one, and
the responses given, oldest first, which are what R177 says is observed. -/
structure State where
  /-- `K1`, unwritten or a word (R21). -/
  k1 : Option Word
  /-- `K2`, unwritten or a word (R21). -/
  k2 : Option Word
  /-- `SK[0]` to `SK[8]`, each unwritten or a word (R22). -/
  sk : Vector (Option Word) 9
  /-- `STATUS` (R23). -/
  status : Status
  /-- What the host does next. -/
  pending : List HostMove
  /-- What the block has answered. -/
  responses : List Response
  deriving DecidableEq, Repr

/-- Reasons for a step to stop with a fault. There are none: a fault of the spec is recorded, answered and followed by
the next command (R157, R158), so it is a next state, and every command completes (R175). -/
inductive Fault where
  deriving DecidableEq, Repr

/-- Reasons for a step to have no meaning. -/
inductive Refusal where
  /-- Raised by an arm of `exec` whose instruction has no meaning yet, under its mnemonic; no arm raises it. Safe. -/
  | notModelled (mnemonic : String)
  deriving DecidableEq, Repr

/-- The state right after reset (R30, R170): `K1`, `K2`, `SK[0..8]` unwritten, `STATUS` zero. No move of the host is
pending and no response has been given. -/
def State.reset : State where
  k1 := none
  k2 := none
  sk := #v[none, none, none, none, none, none, none, none, none]
  status := { kv := false, flt := false, fc := 0#4 }
  pending := []
  responses := []

end Sys2Proof.Machine
end

