-- ==== Sys2Proof/Machine/Flags.lean ====
section
/-!
DEFINITION. The status register: its 64-bit view, the codes of the faults and the record a fault leaves
(spec/10_state.md R23, R26; spec/60_exceptions.md R151, R157).
-/
namespace Sys2Proof.Machine

/-- The code of a fault (R151). -/
def faultCode : FaultName → BitVec 4
  | .illegalOp => 1#4
  | .reservedOperand => 2#4
  | .badIndex => 3#4
  | .noKey => 4#4
  | .keyLocked => 5#4

/-- `zext_64(STATUS.FC ‖ STATUS.FLT ‖ STATUS.KV)` (R23, R141). -/
def statusWord (st : Status) : Word :=
  (st.fc ++ BitVec.ofBool st.flt ++ BitVec.ofBool st.kv).setWidth 64

/-- The fault record (R157): the code is kept for the first fault since reset only; `FLT` is sticky; `KV` is left alone. -/
def recordFault (c : FaultName) (st : Status) : Status :=
  { kv := st.kv, flt := true, fc := if st.flt then st.fc else faultCode c }

/-- `STATUS.KV <- 1`, the other fields unchanged (R108). -/
def setKeyValid (st : Status) : Status := { st with kv := true }

end Sys2Proof.Machine
end

