-- ==== Sys2Proof/Machine/Ops.lean ====
section
/-!
DEFINITION. The operations every command is made of: answering, raising a fault, reading and writing the key registers,
and reset (spec/00_scope.md R10, spec/60_exceptions.md R157, spec/70_reset_and_hazards.md R170). There is no return from
a fault: the block has no handler to return from (R158).
-/
namespace Sys2Proof.Machine

/-- The fault code and the result as the 68-bit response word (R61). -/
def responseWord (r : Response) : ResponseWord := r.fc ++ r.res

/-- The response becomes the latest one the host has received (R61, R177). -/
def answer (r : Response) (s : State) : State := { s with responses := s.responses ++ [r] }

/-- `respond(v)`: the command ends with fault code 0 and result `v` (R10, R61). -/
def respond (v : Word) (s : State) : Host.Outcome State Fault Refusal :=
  .next (answer { fc := 0#4, res := v } s)

/-- `raise X` (R157), the one way a fault is taken: the status records it, the response carries the code and a result of
0, and nothing else changes. -/
def raise (c : FaultName) (s : State) : Host.Outcome State Fault Refusal :=
  .next (answer { fc := faultCode c, res := 0#64 } { s with status := recordFault c s.status })

/-- `K1`, `K2` and all nine `SK[i]` are written and `STATUS.KV` is set, in the same step (R108, R51). -/
def writeKeys (k1 k2 : Word) (sk : Schedule) (s : State) : State :=
  { s with
    k1 := some k1
    k2 := some k2
    sk := #v[some sk[0], some sk[1], some sk[2], some sk[3], some sk[4],
             some sk[5], some sk[6], some sk[7], some sk[8]]
    status := setKeyValid s.status }

/-- The register `SK[i]`; indices 9 to 15 name none (R22, R109). -/
def readSubkey (idx : Nib) (s : State) : Option Word :=
  if h : idx.toNat < 9 then s.sk[idx.toNat] else none

/-- The registers `SK[0]` to `SK[7]`, where all of them are written; `SK[8]` is not read (R22, R124). -/
def readRoundKeys (s : State) : Option RoundKeys :=
  match s.sk[0], s.sk[1], s.sk[2], s.sk[3], s.sk[4], s.sk[5], s.sk[6], s.sk[7] with
  | some a0, some a1, some a2, some a3, some a4, some a5, some a6, some a7 =>
    some #v[a0, a1, a2, a3, a4, a5, a6, a7]
  | _, _, _, _, _, _, _, _ => none

/-- A command that needs the key: `NO_KEY` while `STATUS.KV` is 0 (R71 step 4); otherwise it uses what it reads. A register
that is unwritten although `KV` is 1, which no run reaches, raises `NO_KEY` too (R31; DEDUCED, log 5). -/
def withKey {α : Type} (read : Option α) (result : α → Word) (s : State) : Host.Outcome State Fault Refusal :=
  if s.status.kv then
    match read with
    | some v => respond (result v) s
    | none => raise .noKey s
  else raise .noKey s

/-- The effect of the reset event on the block (R170): every piece of its state takes its reset value; the host's side is
no state of the block. -/
def resetBlock (s : State) : State :=
  { s with
    k1 := State.reset.k1
    k2 := State.reset.k2
    sk := State.reset.sk
    status := State.reset.status }

/-- The host's next move has been taken: `rest` remains. -/
def takeMove (rest : List HostMove) (s : State) : State := { s with pending := rest }

end Sys2Proof.Machine
end

