-- ==== Sys2Proof/Config.lean ====
section
/-!
DEFINITION. What an instance of the block fixes: the five constant tables (spec/00_scope.md R5, spec/20_memory.md
R40, spec/92_eei_decisions.md D15). They are parameters: every function of the block takes a `Config`, and so
do the machine of Machine/Instance.lean and the host's work. The default values are in Machine/Tables.lean. There is no free value: the spec leaves no result open.
-/
namespace Sys2Proof

/-- The five read-only constant tables (R40). They are configuration, not state (R29): nothing writes them and reset
does not change them. -/
structure Config where
  /-- `F`: 16 nibbles, indexed by a nibble; it need not be a permutation (R41). -/
  F : Vector Nib 16
  /-- `G`: 16 nibbles, indexed by a nibble; it need not be a permutation (R42). -/
  G : Vector Nib 16
  /-- `CI`: nine words, read by the key schedule only (R43). -/
  CI : Vector Word 9
  /-- `C`: the first round constant (R44). -/
  C : Word
  /-- `CC`: the second round constant (R44). -/
  CC : Word
  deriving DecidableEq, Repr

end Sys2Proof
end

