-- ==== Sys2Proof/Machine/Tables.lean ====
section
/-!
DEFINITION. Reading the constant tables (spec/20_memory.md R40, R59) and the default values
(R41 to R44). PRESUMED (logs 3 and 4): the spec takes the values from general knowledge; the source's vectors confirm
those of `F`, `G` and `CI` and none of `C` and `CC`.
-/
namespace Sys2Proof.Machine

/-- `F[i]` (R10, R40): every nibble is an index of the table. -/
def romF (cfg : Config) (i : Nib) : Nib := cfg.F[i.toNat]

/-- `G[i]` (R10, R40): every nibble is an index of the table. -/
def romG (cfg : Config) (i : Nib) : Nib := cfg.G[i.toNat]

/-- The default of `F` (R41). -/
def defaultF : Vector Nib 16 :=
  #v[0xF, 0xD, 0xB, 0xB, 0x7, 0x5, 0x7, 0x7, 0xE, 0xD, 0xA, 0xB, 0xE, 0xD, 0xE, 0xF]

/-- The default of `G` (R42). -/
def defaultG : Vector Nib 16 :=
  #v[0xA, 0x6, 0x0, 0x2, 0xB, 0xE, 0x1, 0x8, 0xD, 0x4, 0x5, 0x3, 0xF, 0xC, 0x7, 0x9]

/-- The default of `CI` (R43). -/
def defaultCI : Vector Word 9 :=
  #v[0x290d61409ceb9e8f, 0x1f855f585b013986, 0x972ed7d635ae1716,
     0x21b6694ea5728708, 0x3c18e6e7faadb889, 0xb700f76f73841163,
     0x3f967f6ebf149dac, 0xa40e7ef6204a6230, 0x03c54b5a46a34465]

/-- The default tables (R41 to R44): those of the instance that `exec`, `step` and `core` are. `execOf`, `stepOf` and `coreOf`
take any tables (R5). -/
def config : Config where
  F := defaultF
  G := defaultG
  CI := defaultCI
  C := 0xb7e151628aed2a6a
  CC := 0xbf7158809cf4f3c7

end Sys2Proof.Machine
end

