-- ==== Sys2Proof/Machine/Substitution.lean ====
section
/-!
DEFINITION. The unit nibble_substitution_lut: `p`, `p8` and the commands `P`, `P8`
(spec/40_nibble_substitution_p_p8.md R80 to R84), and the inverses (spec/46_decrypt.md R131).
-/
namespace Sys2Proof.Machine

/-- `p` (R80): three Feistel steps on the two nibbles of a byte. -/
def p (cfg : Config) (b : Byte) : Byte :=
  let pl := hi b
  let pr := lo b
  let u := pl ^^^ romF cfg pr
  let qr := pr ^^^ romG cfg u
  let ql := u ^^^ romF cfg qr
  ql ++ qr

/-- `p8` (R82): `p` on each of the eight bytes, in place. -/
def p8 (cfg : Config) (w : Word) : Word :=
  word (p cfg (byte w 0)) (p cfg (byte w 1)) (p cfg (byte w 2)) (p cfg (byte w 3))
    (p cfg (byte w 4)) (p cfg (byte w 5)) (p cfg (byte w 6)) (p cfg (byte w 7))

/-- `p_inv = p` (R131): `p` undoes itself, whatever the tables. -/
def pInv (cfg : Config) (b : Byte) : Byte := p cfg b

/-- `p8_inv = p8` (R131). -/
def p8Inv (cfg : Config) (w : Word) : Word := p8 cfg w

/-- `P` (R83) of an instance with the tables `cfg` (R5). -/
def execPOf (cfg : Config) (x : Byte) (s : State) : Host.Outcome State Fault Refusal :=
  respond (resByte (p cfg x)) s

/-- `P` (R83) under the default tables. -/
def execP (x : Byte) (s : State) : Host.Outcome State Fault Refusal := execPOf config x s

/-- `P8` (R84) of an instance with the tables `cfg` (R5). -/
def execP8Of (cfg : Config) (w : Word) (s : State) : Host.Outcome State Fault Refusal := respond (p8 cfg w) s

/-- `P8` (R84) under the default tables. -/
def execP8 (w : Word) (s : State) : Host.Outcome State Fault Refusal := execP8Of config w s

end Sys2Proof.Machine
end

