-- ==== Sys2Proof/Machine/Transpose.lean ====
section
/-!
DEFINITION. The unit bit_matrix_transpose_8x8: `t` and the command `T` (spec/41_bit_transpose_t.md R90, R92; spec/46_decrypt.md R132;
spec/90_conflicts.md C1).
-/
namespace Sys2Proof.Machine

/-- Output byte `i` of `t` (R90): bit `7 - i` of every input byte in order, each appended to an accumulator, so that input
byte 0 gives the most significant bit. Bit 7 of a byte is its most significant bit (C1). -/
def tByte (w : Word) (i : Fin 8) : Byte :=
  ([0, 1, 2, 3, 4, 5, 6, 7] : List (Fin 8)).foldl
    (fun acc j => (acc <<< 1) ||| (BitVec.ofBool ((byte w j).getLsbD (7 - i.val))).setWidth 8) 0#8

/-- `t` (R90): the transpose of the 8 by 8 bit matrix whose row `j` is byte `j`. -/
def t (w : Word) : Word :=
  word (tByte w 0) (tByte w 1) (tByte w 2) (tByte w 3) (tByte w 4) (tByte w 5) (tByte w 6) (tByte w 7)

/-- `t_inv = t` (R132). Decryption derives the same forward schedule, so no command evaluates it. -/
def tInv (w : Word) : Word := t w

/-- `T` (R92). -/
def execT (w : Word) (s : State) : Host.Outcome State Fault Refusal := respond (t w) s

end Sys2Proof.Machine
end

