-- ==== Sys2Proof/WellFormed.lean ====
section
/-!
DEFINITION. Which terms of `Instr` are legal commands: every operand is legal but for the index of `RDSK`
(spec/30_encoding.md R62, R72).
-/
namespace Sys2Proof

/-- The legal indices of `RDSK` are 0 to 8 (R72). -/
def legalIndex (idx : Nib) : Bool := idx.toNat ≤ 8

/-- A legal command: every operand of every command is legal, except an `RDSK` index of 9 to 15 (R62, R72). -/
def wellFormed : Instr → Bool
  | .nop => true
  | .p _ => true
  | .p8 _ => true
  | .t _ => true
  | .phi _ => true
  | .m _ _ => true
  | .m8 _ => true
  | .sxor _ _ => true
  | .keyld _ _ => true
  | .rdsk idx => legalIndex idx
  | .rnd _ => true
  | .enc _ => true
  | .dec _ => true
  | .rdst => true

end Sys2Proof
end

