-- ==== Sys2Proof/Machine/KeySchedule.lean ====
section
/-!
DEFINITION. The unit key_schedule_engine: `keysched` and the commands `KEYLD`, `RDSK` (spec/43_key_schedule.md R105,
R108, R109).
-/
namespace Sys2Proof.Machine

/-- `g(x, c) = t(p8(x XOR c))` (R105). -/
def g (cfg : Config) (x c : Word) : Word := t (p8 cfg (x ^^^ c))

/-- `keysched` (R105): `sk[0] = k2 XOR g(k1, CI[0])`, `sk[1] = k1 XOR g(sk[0], CI[1])`, and
`sk[i] = sk[i-2] XOR g(sk[i-1], CI[i])` for i from 2 to 8. -/
def keysched (cfg : Config) (k1 k2 : Word) : Schedule :=
  let sk0 := k2 ^^^ g cfg k1 cfg.CI[0]
  let sk1 := k1 ^^^ g cfg sk0 cfg.CI[1]
  let sk2 := sk0 ^^^ g cfg sk1 cfg.CI[2]
  let sk3 := sk1 ^^^ g cfg sk2 cfg.CI[3]
  let sk4 := sk2 ^^^ g cfg sk3 cfg.CI[4]
  let sk5 := sk3 ^^^ g cfg sk4 cfg.CI[5]
  let sk6 := sk4 ^^^ g cfg sk5 cfg.CI[6]
  let sk7 := sk5 ^^^ g cfg sk6 cfg.CI[7]
  let sk8 := sk6 ^^^ g cfg sk7 cfg.CI[8]
  #v[sk0, sk1, sk2, sk3, sk4, sk5, sk6, sk7, sk8]

/-- `KEYLD` (R108) of an instance with the tables `cfg` (R5): `KEY_LOCKED` while a key is loaded, and then nothing is written
but the fault record (R32). -/
def execKeyldOf (cfg : Config) (k1 k2 : Word) (s : State) : Host.Outcome State Fault Refusal :=
  if s.status.kv then raise .keyLocked s
  else respond 0#64 (writeKeys k1 k2 (keysched cfg k1 k2) s)

/-- `KEYLD` (R108) under the default tables. -/
def execKeyld (k1 k2 : Word) (s : State) : Host.Outcome State Fault Refusal := execKeyldOf config k1 k2 s

/-- `RDSK` (R109): `BAD_INDEX` before `NO_KEY` (R156). -/
def execRdsk (idx : Nib) (s : State) : Host.Outcome State Fault Refusal :=
  if legalIndex idx then withKey (readSubkey idx s) id s
  else raise .badIndex s

end Sys2Proof.Machine
end

