-- ==== Sys2Proof/Machine/Mix.lean ====
section
/-!
DEFINITION. The unit 2byte_mix_function: `phi`, `m`, `m8`, `slice_xor`, the inverses of `m` and `m8`, and the commands
`PHI`, `M`, `M8`, `SXOR` (spec/42_mix_phi_m_m8.md R96 to R104, spec/46_decrypt.md R133, R134).
-/
namespace Sys2Proof.Machine

/-- `PHI_MASK`, the source's literal (R5, R96; 93_implementation_defined.md U7). -/
def phiMask : Byte := 0xAA#8

/-- `phi(b) = (rotl8(b) AND 0xAA) XOR b` (R96). -/
def phi (b : Byte) : Byte := (rotl8 b &&& phiMask) ^^^ b

/-- `m` (R97): `yl` from `phi(xl)`, `yr` from `rotl8(xl)`. -/
def m (cfg : Config) (h : Half) : Half :=
  let xl := left h
  let xr := right h
  let yl := p cfg (phi xl ^^^ xr)
  let yr := p cfg (rotl8 xl ^^^ xr)
  yl ++ yr

/-- `m8` (R98): `m` on each of the four lanes, in place. -/
def m8 (cfg : Config) (w : Word) : Word :=
  ofLanes (m cfg (lane w 0)) (m cfg (lane w 1)) (m cfg (lane w 2)) (m cfg (lane w 3))

/-- `slice_xor` (R99). Both operands have 64 bits, so its length assertion cannot fail (R154). -/
def sliceXor (a b : Word) : Word := a ^^^ b

/-- `psi(v) = (rotl8(v) AND NOT PHI_MASK) XOR v` (R104, R133): the mask is `0x55`. -/
def psi (v : Byte) : Byte := (rotl8 v &&& ~~~phiMask) ^^^ v

/-- `m_inv` (R133); `p` is its own inverse (R131). -/
def mInv (cfg : Config) (y : Half) : Half :=
  let a := p cfg (left y)
  let b := p cfg (right y)
  let xl := psi (a ^^^ b)
  let xr := b ^^^ rotl8 xl
  xl ++ xr

/-- `m8_inv` (R134). -/
def m8Inv (cfg : Config) (w : Word) : Word :=
  ofLanes (mInv cfg (lane w 0)) (mInv cfg (lane w 1)) (mInv cfg (lane w 2)) (mInv cfg (lane w 3))

/-- `PHI` (R100). -/
def execPhi (x : Byte) (s : State) : Host.Outcome State Fault Refusal := respond (resByte (phi x)) s

/-- `M` (R101) of an instance with the tables `cfg` (R5). -/
def execMOf (cfg : Config) (xl xr : Byte) (s : State) : Host.Outcome State Fault Refusal :=
  respond (resHalf (m cfg (halfOperand xl xr))) s

/-- `M` (R101) under the default tables. -/
def execM (xl xr : Byte) (s : State) : Host.Outcome State Fault Refusal := execMOf config xl xr s

/-- `M8` (R102) of an instance with the tables `cfg` (R5). -/
def execM8Of (cfg : Config) (w : Word) (s : State) : Host.Outcome State Fault Refusal := respond (m8 cfg w) s

/-- `M8` (R102) under the default tables. -/
def execM8 (w : Word) (s : State) : Host.Outcome State Fault Refusal := execM8Of config w s

/-- `SXOR` (R103). -/
def execSxor (a b : Word) (s : State) : Host.Outcome State Fault Refusal := respond (sliceXor a b) s

end Sys2Proof.Machine
end

