-- ==== Sys2Proof/Machine/Round.lean ====
section
/-!
DEFINITION. The unit cipher_round_transform: `round`, its inverse and the command `RND` (spec/44_round_transform.md R115
to R117, spec/46_decrypt.md R135, spec/90_conflicts.md C2).
-/
namespace Sys2Proof.Machine

/-- The source's `round` (R115). It takes no subkey (R116). -/
def cipherRound (cfg : Config) (x : Word) : Word :=
  let t2 := m8 cfg x
  let t4 := sliceXor t2 cfg.C
  let t5 := m8 cfg t4
  let t7 := sliceXor t5 cfg.CC
  t7

/-- `kround(x, k) = round(x XOR k)` (R116). -/
def kround (cfg : Config) (x k : Word) : Word := cipherRound cfg (x ^^^ k)

/-- `round_inv` (R135). -/
def cipherRoundInv (cfg : Config) (y : Word) : Word :=
  let t5 := y ^^^ cfg.CC
  let t4 := m8Inv cfg t5
  let t2 := t4 ^^^ cfg.C
  m8Inv cfg t2

/-- `RND` (R117) of an instance with the tables `cfg` (R5): no subkey is read and no key is needed. -/
def execRndOf (cfg : Config) (w : Word) (s : State) : Host.Outcome State Fault Refusal :=
  respond (cipherRound cfg w) s

/-- `RND` (R117) under the default tables. -/
def execRnd (w : Word) (s : State) : Host.Outcome State Fault Refusal := execRndOf config w s

end Sys2Proof.Machine
end

