-- ==== Sys2Proof/Machine/Pipeline.lean ====
section
/-!
DEFINITION. The unit block_cipher_pipeline: encrypting and decrypting one block, and the commands `ENC`, `DEC`
(spec/45_block_pipeline.md R120 to R124, spec/46_decrypt.md R136, R137; spec/90_conflicts.md C5, C6).
-/
namespace Sys2Proof.Machine

/-- The subkeys of a schedule that the block path reads: all but `sk[8]` (R124). -/
def roundKeys (sk : Schedule) : RoundKeys :=
  #v[sk[0], sk[1], sk[2], sk[3], sk[4], sk[5], sk[6], sk[7]]

/-- Seven rounds, each after an XOR with a subkey, and the whitening XOR with `sk[7]` (R120). -/
def encryptWith (cfg : Config) (b : Word) (rk : RoundKeys) : Word :=
  let m1 := cipherRound cfg (b ^^^ rk[0])
  let m2 := cipherRound cfg (m1 ^^^ rk[1])
  let m3 := cipherRound cfg (m2 ^^^ rk[2])
  let m4 := cipherRound cfg (m3 ^^^ rk[3])
  let m5 := cipherRound cfg (m4 ^^^ rk[4])
  let m6 := cipherRound cfg (m5 ^^^ rk[5])
  let m7 := cipherRound cfg (m6 ^^^ rk[6])
  m7 ^^^ rk[7]

/-- The whitening undone first, then the seven rounds with the subkeys in reverse order (R136). -/
def decryptWith (cfg : Config) (y : Word) (rk : RoundKeys) : Word :=
  let m7 := y ^^^ rk[7]
  let m6 := cipherRoundInv cfg m7 ^^^ rk[6]
  let m5 := cipherRoundInv cfg m6 ^^^ rk[5]
  let m4 := cipherRoundInv cfg m5 ^^^ rk[4]
  let m3 := cipherRoundInv cfg m4 ^^^ rk[3]
  let m2 := cipherRoundInv cfg m3 ^^^ rk[2]
  let m1 := cipherRoundInv cfg m2 ^^^ rk[1]
  cipherRoundInv cfg m1 ^^^ rk[0]

/-- `encrypt_block` (R120). -/
def encryptBlock (cfg : Config) (b : Word) (sk : Schedule) : Word := encryptWith cfg b (roundKeys sk)

/-- `decrypt_block` (R136), with the same forward schedule. -/
def decryptBlock (cfg : Config) (y : Word) (sk : Schedule) : Word := decryptWith cfg y (roundKeys sk)

/-- `ENC` (R121) of an instance with the tables `cfg` (R5). -/
def execEncOf (cfg : Config) (w : Word) (s : State) : Host.Outcome State Fault Refusal :=
  withKey (readRoundKeys s) (encryptWith cfg w) s

/-- `ENC` (R121) under the default tables. -/
def execEnc (w : Word) (s : State) : Host.Outcome State Fault Refusal := execEncOf config w s

/-- `DEC` (R137) of an instance with the tables `cfg` (R5). -/
def execDecOf (cfg : Config) (w : Word) (s : State) : Host.Outcome State Fault Refusal :=
  withKey (readRoundKeys s) (decryptWith cfg w) s

/-- `DEC` (R137) under the default tables. -/
def execDec (w : Word) (s : State) : Host.Outcome State Fault Refusal := execDecOf config w s

end Sys2Proof.Machine
end

