-- ==== Sys2Proof/Machine/System.lean ====
section
/-!
DEFINITION. The system commands `NOP` and `RDST` (spec/47_system_commands.md R140, R141).
-/
namespace Sys2Proof.Machine

/-- `NOP` (R140). -/
def execNop (s : State) : Host.Outcome State Fault Refusal := respond 0#64 s

/-- `RDST` (R141): reading the status clears nothing. -/
def execRdst (s : State) : Host.Outcome State Fault Refusal := respond (statusWord s.status) s

end Sys2Proof.Machine
end

