-- ==== Sys2Proof/Machine/Dispatch.lean ====
section
/-!
DEFINITION. The meaning of each command (spec/30_encoding.md R64, R71 step 5): one arm per constructor of `Instr`.
-/
namespace Sys2Proof.Machine

def exec (i : Instr) (s : State) : Host.Outcome State Fault Refusal :=
  match i with
  | .nop => Sys2Proof.Machine.execNop s
  | .p x => Sys2Proof.Machine.execP x s
  | .p8 w => Sys2Proof.Machine.execP8 w s
  | .t w => Sys2Proof.Machine.execT w s
  | .phi x => Sys2Proof.Machine.execPhi x s
  | .m xl xr => Sys2Proof.Machine.execM xl xr s
  | .m8 w => Sys2Proof.Machine.execM8 w s
  | .sxor a b => Sys2Proof.Machine.execSxor a b s
  | .keyld k1 k2 => Sys2Proof.Machine.execKeyld k1 k2 s
  | .rdsk idx => Sys2Proof.Machine.execRdsk idx s
  | .rnd w => Sys2Proof.Machine.execRnd w s
  | .enc w => Sys2Proof.Machine.execEnc w s
  | .dec w => Sys2Proof.Machine.execDec w s
  | .rdst => Sys2Proof.Machine.execRdst s

end Sys2Proof.Machine
end

