-- ==== Sys2Proof/Decode.lean ====
section
/-!
DEFINITION. Decoding a command word (spec/30_encoding.md R60 to R68 and R71), and the encoder. Decoding is total:
every one of the 2^132 words gives one command or one of the three faults that depend on the word alone (R67).
-/
namespace Sys2Proof

/-- The opcode field `op = CW[131:128]` (R60). -/
def opField (cw : CommandWord) : BitVec 4 := cw.extractLsb' 128 4

/-- The operand field `arg = CW[127:0]` (R60). -/
def argField (cw : CommandWord) : Arg := cw.extractLsb' 0 128

/-- `arg[7:0]`: the operand `x` of format B and `xr` of format H (R62). -/
def argByteLow (arg : Arg) : Byte := arg.extractLsb' 0 8

/-- `arg[15:8]`: the operand `xl` of format H (R62). -/
def argByteHigh (arg : Arg) : Byte := arg.extractLsb' 8 8

/-- `arg[63:0]`: the operand `w` of format W and `b` of format D (R62). -/
def argWordLow (arg : Arg) : Word := arg.extractLsb' 0 64

/-- `arg[127:64]`: the operand `a` of format D (R62). -/
def argWordHigh (arg : Arg) : Word := arg.extractLsb' 64 64

/-- `arg[3:0]`: the operand `i` of format I (R62). -/
def argIndex (arg : Arg) : Nib := arg.extractLsb' 0 4

/-- The lowest must-be-zero bit of a format: the operand of the format lies below it (R62, R66). -/
def operandWidth : Format → Nat
  | .Z => 0
  | .B => 8
  | .H => 16
  | .W => 64
  | .D => 128
  | .I => 4

/-- The must-be-zero bits of `arg` are all zero (R66). -/
def mbzClear (fmt : Format) (arg : Arg) : Bool := arg >>> operandWidth fmt = 0#128

/-- The opcode map (R64): the format of an opcode, and the command that its operand field gives. -/
def opcodeRow (op : BitVec 4) : Option (Format × (Arg → Instr)) :=
  match op.toNat with
  | 0x0 => some (.Z, fun _ => .nop)
  | 0x1 => some (.B, fun arg => .p (argByteLow arg))
  | 0x2 => some (.W, fun arg => .p8 (argWordLow arg))
  | 0x3 => some (.W, fun arg => .t (argWordLow arg))
  | 0x4 => some (.B, fun arg => .phi (argByteLow arg))
  | 0x5 => some (.H, fun arg => .m (argByteHigh arg) (argByteLow arg))
  | 0x6 => some (.W, fun arg => .m8 (argWordLow arg))
  | 0x7 => some (.D, fun arg => .sxor (argWordHigh arg) (argWordLow arg))
  | 0x8 => some (.D, fun arg => .keyld (argWordHigh arg) (argWordLow arg))
  | 0x9 => some (.I, fun arg => .rdsk (argIndex arg))
  | 0xA => some (.W, fun arg => .rnd (argWordLow arg))
  | 0xB => some (.W, fun arg => .enc (argWordLow arg))
  | 0xC => some (.W, fun arg => .dec (argWordLow arg))
  | 0xD => some (.Z, fun _ => .rdst)
  | _ => none

/-- Steps (1) to (3) of R71, in that order: `ILLEGAL_OP`, `RESERVED_OPERAND`, `BAD_INDEX`, else the command. -/
def decode (cw : CommandWord) : Except FaultName Instr :=
  match opcodeRow (opField cw) with
  | none => .error .illegalOp
  | some (fmt, build) =>
    if mbzClear fmt (argField cw) then
      if wellFormed (build (argField cw)) then .ok (build (argField cw)) else .error .badIndex
    else .error .reservedOperand

/-- The opcode of a command (R64). -/
def opcode : Instr → BitVec 4
  | .nop => 0x0#4
  | .p _ => 0x1#4
  | .p8 _ => 0x2#4
  | .t _ => 0x3#4
  | .phi _ => 0x4#4
  | .m _ _ => 0x5#4
  | .m8 _ => 0x6#4
  | .sxor _ _ => 0x7#4
  | .keyld _ _ => 0x8#4
  | .rdsk _ => 0x9#4
  | .rnd _ => 0xA#4
  | .enc _ => 0xB#4
  | .dec _ => 0xC#4
  | .rdst => 0xD#4

/-- The format of a command (R62, R64). -/
def formatOf : Instr → Format
  | .nop => .Z
  | .p _ => .B
  | .p8 _ => .W
  | .t _ => .W
  | .phi _ => .B
  | .m _ _ => .H
  | .m8 _ => .W
  | .sxor _ _ => .D
  | .keyld _ _ => .D
  | .rdsk _ => .I
  | .rnd _ => .W
  | .enc _ => .W
  | .dec _ => .W
  | .rdst => .Z

/-- The operand field of a command: its operands right-aligned, zero above (R62, R63). -/
def operandField : Instr → Arg
  | .nop => 0#128
  | .p x => x.setWidth 128
  | .p8 w => w.setWidth 128
  | .t w => w.setWidth 128
  | .phi x => x.setWidth 128
  | .m xl xr => (xl ++ xr).setWidth 128
  | .m8 w => w.setWidth 128
  | .sxor a b => a ++ b
  | .keyld k1 k2 => k1 ++ k2
  | .rdsk idx => idx.setWidth 128
  | .rnd w => w.setWidth 128
  | .enc w => w.setWidth 128
  | .dec w => w.setWidth 128
  | .rdst => 0#128

/-- The command word of a command (R60): `op ‖ arg`. -/
def encode (instr : Instr) : CommandWord := opcode instr ++ operandField instr

/-- The command word whose bits are `w`, bit 0 its least significant bit as in opcode_table.json; a number of more than
132 bits is no command word. -/
def commandWordOfBits (w : Nat) : Option CommandWord :=
  if w < 2 ^ 132 then some (BitVec.ofNat 132 w) else none

/-- What the decoder reads from the bits `w`. The number of bits the table gives is not needed: a command is one word of
132 bits, and every bit above the given ones is 0. -/
def decodeTableWord (_nbits w : Nat) : Option Instr :=
  match commandWordOfBits w with
  | none => none
  | some cw =>
    match decode cw with
    | .ok instr => some instr
    | .error _ => none

end Sys2Proof
end

