-- ==== Sys2Proof/Machine/Fetch.lean ====
section
/-!
DEFINITION. What surrounds a command: taking the host's next move off the list, stepping on it, and placing a command there
(spec/10_state.md R25, spec/20_memory.md R54, spec/70_reset_and_hazards.md R173). The block fetches no instructions; the
host presents them.
-/
namespace Sys2Proof.Machine

/-- What the block does in one step (R54, R170, R166). -/
inductive Event where
  /-- The host makes no move: the block holds its state (R166). -/
  | idle
  /-- Reset, between two commands (R170). -/
  | reset (rest : List HostMove)
  /-- A word that is no legal command (R71 steps 1 to 3). -/
  | illFormed (c : FaultName) (rest : List HostMove)
  /-- A command to be executed (R71 steps 4 and 5). -/
  | run (instr : Instr) (rest : List HostMove)
  deriving DecidableEq, Repr

/-- The event that the host's next move gives. -/
def nextEvent (pending : List HostMove) : Event :=
  match pending with
  | [] => .idle
  | .reset :: rest => .reset rest
  | .command cw :: rest =>
    match decode cw with
    | .ok instr => .run instr rest
    | .error c => .illFormed c rest

/-- One atomic step (R51) of a block whose commands mean `run`: idle, reset, the fault of an ill-formed word, or one
command. -/
def stepBy (run : Instr → State → Host.Outcome State Fault Refusal) (s : State) : Host.Outcome State Fault Refusal :=
  match nextEvent s.pending with
  | .idle => .next s
  | .reset rest => .next (resetBlock (takeMove rest s))
  | .illFormed c rest => raise c (takeMove rest s)
  | .run instr rest => run instr (takeMove rest s)

/-- The host presents `move` before anything else it has to do. -/
def present (move : HostMove) (s : State) : State := { s with pending := move :: s.pending }

/-- The state with the command word of the bits `w` presented next; a number of more than 132 bits is no command word and
its upper bits are dropped. -/
def presentBits (w : Nat) (s : State) : State := present (.command (BitVec.ofNat 132 w)) s

end Sys2Proof.Machine
end

