-- ==== Sys2Proof/Machine/Step.lean ====
section
/-!
DEFINITION. One step of the machine: one move of the host (spec/20_memory.md R51, R54; spec/30_encoding.md R71).
-/
namespace Sys2Proof.Machine

/-- One atomic step (R51) of the block with the default tables; `stepOf` is that of an instance with any tables. -/
def step (s : State) : Host.Outcome State Fault Refusal := stepBy exec s

/-- `s` with the command word of the bits `w` as the host's next move (log 1): the very next step runs it. The number of
bits the table gives is not needed, as in `decodeTableWord`. -/
def State.withFetchWord (s : State) (_nbits w : Nat) : State := presentBits w s

end Sys2Proof.Machine
end

