-- ==== Sys2Proof/Machine/Instance.lean ====
section
/-!
DEFINITION. The block with its five constant tables as an argument (spec/00_scope.md R5, spec/92_eei_decisions.md D15): every
command, every step and the machine, for any instance. `exec`, `step` and `core` are the instance with the default tables.
-/
namespace Sys2Proof.Machine

/-- What a command does in an instance with the tables `cfg`. Six commands read no table. -/
def execOf (cfg : Config) (i : Instr) (s : State) : Host.Outcome State Fault Refusal :=
  match i with
  | .nop => execNop s
  | .p x => execPOf cfg x s
  | .p8 w => execP8Of cfg w s
  | .t w => execT w s
  | .phi x => execPhi x s
  | .m xl xr => execMOf cfg xl xr s
  | .m8 w => execM8Of cfg w s
  | .sxor a b => execSxor a b s
  | .keyld k1 k2 => execKeyldOf cfg k1 k2 s
  | .rdsk idx => execRdsk idx s
  | .rnd w => execRndOf cfg w s
  | .enc w => execEncOf cfg w s
  | .dec w => execDecOf cfg w s
  | .rdst => execRdst s

/-- One atomic step of an instance with the tables `cfg` (R51, R54, R71). -/
def stepOf (cfg : Config) (s : State) : Host.Outcome State Fault Refusal := stepBy (execOf cfg) s

/-- The machine of an instance with the tables `cfg`. Reset does not touch the tables (R29, R30). -/
def coreOf (cfg : Config) : Host.Core where
  State := State
  Fault := Fault
  Refusal := Refusal
  step := stepOf cfg
  reset := State.reset

end Sys2Proof.Machine
end

