-- ==== Sys2Proof/Machine/HostSide.lean ====
section
/-!
DEFINITION. The host's work at the boundary: the key and stream boundary (spec/20_memory.md R46 to R49), the
pseudo-instructions and the two sessions (spec/30_encoding.md R70, spec/70_reset_and_hazards.md R172, R173). None of this
is in the block: every function here only presents moves to an instance (`stepOf`) and looks at the responses.
-/
namespace Sys2Proof.Machine

/-- The host's own errors, raised before the command that would have used the missing thing; they have no fault code
(R153). The other kinds of R153 belong to the file layer, which is out of scope (R4). -/
inductive HostError where
  /-- A key source of more than 16 bytes (R47). -/
  | keyMaterialTooLong
  /-- An input whose length is not a multiple of 8 (R49). -/
  | partialBlock
  deriving DecidableEq, Repr

/-- Byte `j` of the key: the source's byte, or `0x00` past its end (R47). -/
def keyByte (kb : List Byte) (j : Nat) : Byte := kb.getD j 0#8

/-- Key bytes to key words (R46, R47): at most 16 bytes, padded with zero bytes on the right. -/
def keyWords (kb : List Byte) : Except HostError (Word × Word) :=
  if 16 < kb.length then .error .keyMaterialTooLong
  else .ok
    (word (keyByte kb 0) (keyByte kb 1) (keyByte kb 2) (keyByte kb 3)
       (keyByte kb 4) (keyByte kb 5) (keyByte kb 6) (keyByte kb 7),
     word (keyByte kb 8) (keyByte kb 9) (keyByte kb 10) (keyByte kb 11)
       (keyByte kb 12) (keyByte kb 13) (keyByte kb 14) (keyByte kb 15))

/-- `KEYLDB` (R70): the command to issue, or the error and no command. -/
def keyldb (kb : List Byte) : Except HostError Instr :=
  match keyWords kb with
  | .error e => .error e
  | .ok (k1, k2) => .ok (.keyld k1 k2)

/-- Bytes to blocks (R48): block `n` is the word of bytes `8n` to `8n+7`; a rest of 1 to 7 bytes is refused (R49). -/
def blocksOfBytes : List Byte → Except HostError (List Word)
  | [] => .ok []
  | b0 :: b1 :: b2 :: b3 :: b4 :: b5 :: b6 :: b7 :: rest =>
    match blocksOfBytes rest with
    | .error e => .error e
    | .ok ws => .ok (word b0 b1 b2 b3 b4 b5 b6 b7 :: ws)
  | _ => .error .partialBlock

/-- The eight bytes of a word, byte 0 first (R48). -/
def bytesOfWord (w : Word) : List Byte :=
  [byte w 0, byte w 1, byte w 2, byte w 3, byte w 4, byte w 5, byte w 6, byte w 7]

/-- Blocks to bytes (R48): the bytes of each block at its own position. -/
def bytesOfBlocks (ws : List Word) : List Byte := ws.flatMap bytesOfWord

/-- The host issues one command and has its response before it does anything else (R54, R123). -/
def issue (cfg : Config) (instr : Instr) (s : State) : Host.Outcome State Fault Refusal :=
  stepOf cfg (present (.command (encode instr)) s)

/-- The host resets the block (R69, R170). -/
def issueReset (cfg : Config) (s : State) : Host.Outcome State Fault Refusal := stepOf cfg (present .reset s)

/-- The host goes on from the state it has reached. -/
def goOn (o : Host.Outcome State Fault Refusal) (f : State → Host.Outcome State Fault Refusal) :
    Host.Outcome State Fault Refusal :=
  match o with
  | .next s => f s
  | .fault r => .fault r
  | .refused r => .refused r

/-- The latest response carries a fault code other than 0. -/
def lastFaulted (s : State) : Bool :=
  match s.responses.getLast? with
  | some r => r.fc != 0#4
  | none => false

/-- The result of the latest response, the `$name` of R69 for the command just issued; 0 where there is none. -/
def lastResult (s : State) : Word :=
  match s.responses.getLast? with
  | some r => r.res
  | none => 0#64

/-- One block command per word in order; the host stops at the first response with a fault code (R70, R123). -/
def blockStream (cfg : Config) (command : Word → Instr) : List Word → State → Host.Outcome State Fault Refusal
  | [], s => .next s
  | w :: ws, s =>
    goOn (issue cfg (command w) s) fun s' => if lastFaulted s' then .next s' else blockStream cfg command ws s'

/-- `ENCS` (R70, R123). -/
def encs (cfg : Config) (ws : List Word) (s : State) : Host.Outcome State Fault Refusal :=
  blockStream cfg .enc ws s

/-- `DECS` (R70, R139). -/
def decs (cfg : Config) (ws : List Word) (s : State) : Host.Outcome State Fault Refusal :=
  blockStream cfg .dec ws s

/-- `KRND` (R70): `v <- SXOR #x, #k; RND $v`. -/
def krnd (cfg : Config) (x k : Word) (s : State) : Host.Outcome State Fault Refusal :=
  goOn (issue cfg (.sxor x k) s) fun s' => issue cfg (.rnd (lastResult s')) s'

/-- A session (R70, R172): the key and the input are checked before any command, then `RESET`, `KEYLDB` and one block
command per block. -/
def session (cfg : Config) (command : Word → Instr) (kb input : List Byte) (s : State) :
    Except HostError (Host.Outcome State Fault Refusal) :=
  match keyldb kb with
  | .error e => .error e
  | .ok load =>
    match blocksOfBytes input with
    | .error e => .error e
    | .ok ws =>
      .ok (goOn (issueReset cfg s) fun s1 => goOn (issue cfg load s1) fun s2 =>
        if lastFaulted s2 then .next s2 else blockStream cfg command ws s2)

/-- The source's `encrypt` (R70). For a generated key the 16 drawn bytes are the argument `kb`, a free input (R58). -/
def encryptSession (cfg : Config) (kb input : List Byte) (s : State) :
    Except HostError (Host.Outcome State Fault Refusal) :=
  session cfg .enc kb input s

/-- The source's `decrypt` (R70): the same, with `DEC`. -/
def decryptSession (cfg : Config) (kb input : List Byte) (s : State) :
    Except HostError (Host.Outcome State Fault Refusal) :=
  session cfg .dec kb input s

/-- The bytes the host writes out of the responses after the first `n` (R48): those of the results. A faulted response has no
result, and its `res` of 0 is not data (R174 Z1, Z10). What the output holds after a stream that stopped at a fault is left
to the host (R123, R177, 93 U10); here it holds the blocks answered before the fault and nothing after them (DESIGN CHOICE,
log 14). -/
def outputBytes (n : Nat) (s : State) : List Byte :=
  bytesOfBlocks (((s.responses.drop n).filter fun r => r.fc == 0#4).map (·.res))

end Sys2Proof.Machine
end

