-- ==== Sys2Proof/Machine/Assembly.lean ====
section
/-!
DEFINITION. Command sequences as the spec writes them (spec/30_encoding.md R69): one command a line, an operand a literal or
the result of an earlier labelled command, and the directive `RESET`. The text itself is not parsed: a line is a term. The
host carries the named results; the block keeps none.
-/
namespace Sys2Proof.Machine

/-- An operand of a line (R69): `#0x...` of the operand's width, or `$name`. -/
inductive Operand (n : Nat) where
  | lit (v : BitVec n)
  | res (name : String)
  deriving DecidableEq, Repr

/-- A command with its operands in R69's order; `M` takes its half as one operand. -/
inductive Mnemonic where
  | nop
  | p (x : Operand 8)
  | p8 (w : Operand 64)
  | t (w : Operand 64)
  | phi (x : Operand 8)
  | m (h : Operand 16)
  | m8 (w : Operand 64)
  | sxor (a b : Operand 64)
  | keyld (k1 k2 : Operand 64)
  | rdsk (idx : Operand 4)
  | rnd (w : Operand 64)
  | enc (w : Operand 64)
  | dec (w : Operand 64)
  | rdst
  deriving DecidableEq, Repr

/-- A line (R69): `RESET`, or `[name <-] MNEMONIC [operands]`. -/
inductive Line where
  | reset
  | command (name : Option String) (c : Mnemonic)
  deriving DecidableEq, Repr

/-- Why a line cannot be issued (DESIGN CHOICE, log 12). -/
inductive LineError where
  /-- `$name` names no earlier command. -/
  | unknownName (name : String)
  /-- The result that `$name` stands for does not fit the operand's width. -/
  | resultTooWide (name : String)
  deriving DecidableEq, Repr

/-- The results named so far, the latest first. -/
abbrev Named := List (String × Word)

/-- The result of the latest command labelled `name`. -/
def lookupName (env : Named) (name : String) : Option Word :=
  match env with
  | [] => none
  | (n, v) :: rest => if n = name then some v else lookupName rest name

/-- The value of an operand of `n` bits (R69): a result that needs more bits than the operand has is not cut (log 12). -/
def operandValue (n : Nat) (env : Named) : Operand n → Except LineError (BitVec n)
  | .lit v => .ok v
  | .res name =>
    match lookupName env name with
    | none => .error (.unknownName name)
    | some v => if v.toNat < 2 ^ n then .ok (v.setWidth n) else .error (.resultTooWide name)

/-- The command with one operand, once its value is known. -/
def oneOperand (n : Nat) (env : Named) (x : Operand n) (command : BitVec n → Instr) : Except LineError Instr :=
  match operandValue n env x with
  | .ok v => .ok (command v)
  | .error e => .error e

/-- The command with two word operands, once their values are known. -/
def twoOperands (env : Named) (a b : Operand 64) (command : Word → Word → Instr) : Except LineError Instr :=
  match operandValue 64 env a with
  | .error e => .error e
  | .ok va => oneOperand 64 env b (command va)

/-- The command of a line (R69). -/
def assemble (env : Named) : Mnemonic → Except LineError Instr
  | .nop => .ok .nop
  | .p x => oneOperand 8 env x .p
  | .p8 w => oneOperand 64 env w .p8
  | .t w => oneOperand 64 env w .t
  | .phi x => oneOperand 8 env x .phi
  | .m h => oneOperand 16 env h fun v => .m (left v) (right v)
  | .m8 w => oneOperand 64 env w .m8
  | .sxor a b => twoOperands env a b .sxor
  | .keyld k1 k2 => twoOperands env k1 k2 .keyld
  | .rdsk idx => oneOperand 4 env idx .rdsk
  | .rnd w => oneOperand 64 env w .rnd
  | .enc w => oneOperand 64 env w .enc
  | .dec w => oneOperand 64 env w .dec
  | .rdst => .ok .rdst

/-- The names after a command has been answered. -/
def bindName (name : Option String) (s : State) (env : Named) : Named :=
  match name with
  | none => env
  | some n => (n, lastResult s) :: env

/-- A program, line by line (R69; 95_test_vectors.md part 3): it goes on after a fault response. It ends with the block's
state, or at the first line that cannot be issued. -/
def runLines (cfg : Config) : List Line → Named → State → Except LineError (Host.Outcome State Fault Refusal)
  | [], _, s => .ok (.next s)
  | .reset :: rest, env, s =>
    match issueReset cfg s with
    | .next s' => runLines cfg rest env s'
    | o => .ok o
  | .command name c :: rest, env, s =>
    match assemble env c with
    | .error e => .error e
    | .ok instr =>
      match issue cfg instr s with
      | .next s' => runLines cfg rest (bindName name s' env) s'
      | o => .ok o

/-- The expansion of `KRND #x, #k` (R70). -/
def krndLines (x k : Word) : List Line :=
  [.command (some "v") (.sxor (.lit x) (.lit k)), .command none (.rnd (.res "v"))]

end Sys2Proof.Machine
end

