-- ==== Sys2Proof/Safety.lean ====
section
/-!
DEFINITION. What a good run is (spec/70_reset_and_hazards.md R177) and the invariants of the block that claims use
(spec/10_state.md R22, R23, R31, spec/30_encoding.md R61, spec/60_exceptions.md R151).
-/
namespace Sys2Proof.Safety

open Sys2Proof.Machine

/-- No key is loaded: `STATUS.KV` is 0 and all eleven key registers are unwritten (R31). -/
def NoKeyLoaded (s : State) : Prop :=
  s.status.kv = false ∧ s.k1 = none ∧ s.k2 = none ∧ ∀ i : Fin 9, s.sk[i] = none

/-- A key is loaded: `STATUS.KV` is 1, all eleven key registers hold values, and the nine subkeys are the schedule of the
master key under the instance's tables (R22, R31). -/
def KeyLoaded (cfg : Config) (s : State) : Prop :=
  s.status.kv = true ∧ ∃ k1 k2 : Word, s.k1 = some k1 ∧ s.k2 = some k2 ∧
    ∀ i : Fin 9, s.sk[i] = some (keysched cfg k1 k2)[i]

/-- The key registers agree with `STATUS.KV` and with each other (R22, R31). -/
def KeyConsistent (cfg : Config) (s : State) : Prop := NoKeyLoaded s ∨ KeyLoaded cfg s

/-- The fault record is empty, or holds the code of one of the five faults (R23, R151). -/
def FaultRecordLegal (s : State) : Prop :=
  (s.status.flt = false ∧ s.status.fc = 0#4) ∨
    (s.status.flt = true ∧ 1 ≤ s.status.fc.toNat ∧ s.status.fc.toNat ≤ 5)

/-- A response the block can give: its code is 0 to 5, and its result is 0 unless the code is 0 (R61, R151). -/
def ResponseLegal (r : Response) : Prop := r.fc.toNat ≤ 5 ∧ (r.fc ≠ 0#4 → r.res = 0#64)

/-- Every response so far is one the block can give. -/
def ResponsesLegal (s : State) : Prop := ∀ r ∈ s.responses, ResponseLegal r

/-- What is observed of a run that ends in `s`: the response words in order, and the final `STATUS` (R177). -/
def observation (s : State) : List ResponseWord × Word := (s.responses.map responseWord, statusWord s.status)

/-- A good run: every response has fault code 0 (R177). -/
def GoodRun (s : State) : Prop := ∀ r ∈ s.responses, r.fc = 0#4

/-- A recorded fault is one that the host has been told of (R157, R177). -/
def RecordedFaultWasAnswered (s : State) : Prop := s.status.flt = true → ∃ r ∈ s.responses, r.fc ≠ 0#4

/-- The key registers `SK[0]` to `SK[7]` hold the first eight words of `sk`; nothing is said of `SK[8]` (R22). -/
def HoldsRoundKeys (s : State) (sk : Schedule) : Prop :=
  s.sk[0] = some sk[0] ∧ s.sk[1] = some sk[1] ∧ s.sk[2] = some sk[2] ∧ s.sk[3] = some sk[3] ∧
  s.sk[4] = some sk[4] ∧ s.sk[5] = some sk[5] ∧ s.sk[6] = some sk[6] ∧ s.sk[7] = some sk[7]

end Sys2Proof.Safety
end

