-- ==== Sys2Proof/Certificates/Slice0/Obligations.lean ====
section
/-!
DEFINITION. The statements for the provers: encoding, one step, each command's effect and its faults, the laws of the
functions for any tables, the invariants, the rules about the whole machine, and the host's boundary. Each docstring names
the rules it formalises. A statement about a function that says "for every `cfg`" holds for any constant tables
(spec/00_scope.md R5, spec/92_eei_decisions.md D15). `exec` and `step` are the instance with the default tables `config`
(logs 3, 4); `execOf cfg` and `stepOf cfg` are an instance with any tables.
-/
open Sys2Proof Sys2Proof.Machine Sys2Proof.Safety

/-! ## Encoding and decoding -/

/-- R60, R62, R63, R64, R71: the word of a well-formed command decodes to that command, with every operand at every value. -/
def Obligations.DecodeOfEncode : Prop :=
  ∀ i : Instr, wellFormed i = true → decode (encode i) = .ok i

/-- R62, R64, R66, R67: a word that decodes is the word of the command it decodes to, and that command is well-formed: no
bit of a word is ignored. -/
def Obligations.EncodeOfDecode : Prop :=
  ∀ (cw : CommandWord) (i : Instr), decode cw = .ok i → wellFormed i = true ∧ encode i = cw

/-- R67: every one of the 2^132 words either is the word of exactly one well-formed command and decodes to it, or is the word
of none and decodes to one of the three faults that depend on the word alone. -/
def Obligations.EveryWordDecodesOrFaults : Prop :=
  ∀ cw : CommandWord,
    (∃ i, wellFormed i = true ∧ encode i = cw ∧ decode cw = .ok i ∧
        ∀ j, wellFormed j = true → encode j = cw → j = i) ∨
      (∃ c, (c = .illegalOp ∨ c = .reservedOperand ∨ c = .badIndex) ∧ decode cw = .error c ∧
        ∀ j, wellFormed j = true → encode j ≠ cw)

/-- R60 to R64: words written out from the encoding tables and the examples of the rules decode to the commands they stand
for; and so does, for each of the fourteen rows of the opcode map, its opcode with its operand at every value in the place its
format gives it, zeros above. A sanity statement. -/
def Obligations.SampleWordsDecode : Prop :=
  decode (0x0#4 ++ 0#128) = .ok .nop ∧
  (∀ x : Byte, decode (0x1#4 ++ (0#120 ++ x)) = .ok (.p x)) ∧
  (∀ w : Word, decode (0x2#4 ++ (0#64 ++ w)) = .ok (.p8 w)) ∧
  (∀ w : Word, decode (0x3#4 ++ (0#64 ++ w)) = .ok (.t w)) ∧
  (∀ x : Byte, decode (0x4#4 ++ (0#120 ++ x)) = .ok (.phi x)) ∧
  (∀ xl xr : Byte, decode (0x5#4 ++ (0#112 ++ (xl ++ xr))) = .ok (.m xl xr)) ∧
  (∀ w : Word, decode (0x6#4 ++ (0#64 ++ w)) = .ok (.m8 w)) ∧
  (∀ a b : Word, decode (0x7#4 ++ (a ++ b)) = .ok (.sxor a b)) ∧
  (∀ k1 k2 : Word, decode (0x8#4 ++ (k1 ++ k2)) = .ok (.keyld k1 k2)) ∧
  (∀ idx : Nib, idx.toNat ≤ 8 → decode (0x9#4 ++ (0#124 ++ idx)) = .ok (.rdsk idx)) ∧
  (∀ w : Word, decode (0xA#4 ++ (0#64 ++ w)) = .ok (.rnd w)) ∧
  (∀ w : Word, decode (0xB#4 ++ (0#64 ++ w)) = .ok (.enc w)) ∧
  (∀ w : Word, decode (0xC#4 ++ (0#64 ++ w)) = .ok (.dec w)) ∧
  decode (0xD#4 ++ 0#128) = .ok .rdst ∧
  decode 0x000000000000000000000000000000000#132 = .ok .nop ∧
  decode 0x100000000000000000000000000000026#132 = .ok (.p 0x26#8) ∧
  decode 0x3000000000000000012bbca9a9134378e#132 = .ok (.t 0x12bbca9a9134378e#64) ∧
  decode 0x500000000000000000000000000000123#132 = .ok (.m 0x01#8 0x23#8) ∧
  decode 0x80123456789abcdeffedcba9876543210#132 = .ok (.keyld 0x0123456789abcdef#64 0xfedcba9876543210#64) ∧
  decode 0x900000000000000000000000000000008#132 = .ok (.rdsk 8#4) ∧
  decode 0xb00000000000000000123456789abcdef#132 = .ok (.enc 0x0123456789abcdef#64) ∧
  decode 0xd00000000000000000000000000000000#132 = .ok .rdst

/-! ## One step -/

/-- R65: a word whose opcode is `0xE` or `0xF` faults with code 1 whatever its operand field, and has no other effect. -/
def Obligations.ReservedOpcodeFaults : Prop :=
  ∀ (s : State) (cw : CommandWord) (rest : List HostMove), s.pending = .command cw :: rest →
    (cw.extractLsb' 128 4 = 0xE#4 ∨ cw.extractLsb' 128 4 = 0xF#4) →
    step s = .next { s with
      pending := rest
      status := { kv := s.status.kv, flt := true, fc := if s.status.flt then s.status.fc else 1#4 }
      responses := s.responses ++ [{ fc := 1#4, res := 0#64 }] }

/-- R66: a word of a defined opcode with a must-be-zero bit set faults with code 2 and has no other effect. The bits, per
format: Z `arg[127:0]`, B `arg[127:8]`, H `arg[127:16]`, W `arg[127:64]`, D none, I `arg[127:4]`. -/
def Obligations.ReservedOperandFaults : Prop :=
  ∀ (s : State) (cw : CommandWord) (rest : List HostMove), s.pending = .command cw :: rest →
    ((cw.extractLsb' 128 4 ∈ [0x0#4, 0xD#4] ∧ cw.extractLsb' 0 128 ≠ 0#128) ∨
      (cw.extractLsb' 128 4 ∈ [0x1#4, 0x4#4] ∧ cw.extractLsb' 8 120 ≠ 0#120) ∨
      (cw.extractLsb' 128 4 = 0x5#4 ∧ cw.extractLsb' 16 112 ≠ 0#112) ∨
      (cw.extractLsb' 128 4 ∈ [0x2#4, 0x3#4, 0x6#4, 0xA#4, 0xB#4, 0xC#4] ∧ cw.extractLsb' 64 64 ≠ 0#64) ∨
      (cw.extractLsb' 128 4 = 0x9#4 ∧ cw.extractLsb' 4 124 ≠ 0#124)) →
    step s = .next { s with
      pending := rest
      status := { kv := s.status.kv, flt := true, fc := if s.status.flt then s.status.fc else 2#4 }
      responses := s.responses ++ [{ fc := 2#4, res := 0#64 }] }

/-- R72: an `RDSK` word whose must-be-zero bits are zero and whose index is 9 to 15 faults with code 3, key or no key, and
has no other effect. -/
def Obligations.BadIndexFaults : Prop :=
  ∀ (s : State) (cw : CommandWord) (rest : List HostMove), s.pending = .command cw :: rest →
    cw.extractLsb' 128 4 = 0x9#4 → cw.extractLsb' 4 124 = 0#124 → 9 ≤ (cw.extractLsb' 0 4).toNat →
    step s = .next { s with
      pending := rest
      status := { kv := s.status.kv, flt := true, fc := if s.status.flt then s.status.fc else 3#4 }
      responses := s.responses ++ [{ fc := 3#4, res := 0#64 }] }

/-- R62, R67: every word with opcode `0x7` or `0x8` is a legal command; formats D have no must-be-zero bit. -/
def Obligations.TwoWordFormatsHaveNoReservedBits : Prop :=
  ∀ arg : Arg,
    decode (0x7#4 ++ arg) = .ok (.sxor (arg.extractLsb' 64 64) (arg.extractLsb' 0 64)) ∧
      decode (0x8#4 ++ arg) = .ok (.keyld (arg.extractLsb' 64 64) (arg.extractLsb' 0 64))

/-- R54, R71 step 5: when the host's next move is a word that decodes, the step is the command's meaning, run on the state
with that move taken. -/
def Obligations.StepRunsTheDecodedCommand : Prop :=
  ∀ (s : State) (cw : CommandWord) (rest : List HostMove) (i : Instr),
    s.pending = .command cw :: rest → decode cw = .ok i → step s = exec i { s with pending := rest }

/-- R170, R30: the reset move puts the block's state at its reset values and gives no response; the host's coming moves and
what it has been told stay (log 2). -/
def Obligations.ResetMoveResetsTheBlock : Prop :=
  ∀ (s : State) (rest : List HostMove), s.pending = .reset :: rest →
    step s = .next { State.reset with pending := rest, responses := s.responses }

/-- R166: without a move of the host the block holds its state (log 1). -/
def Obligations.StepWithoutAMoveHoldsTheState : Prop :=
  ∀ s : State, s.pending = [] → step s = .next s

/-- R61, R150, R175: every step completes; a command word, legal or not, is answered by exactly one response, of code 0 to 5,
whose result is 0 unless the code is 0, and whose response word carries the code in bits 67:64 and the result in bits 63:0. -/
def Obligations.EveryStepCompletesAndEveryWordIsAnsweredOnce : Prop :=
  ∀ s : State, ∃ s', step s = .next s' ∧
    ∀ cw rest, s.pending = .command cw :: rest →
      s'.pending = rest ∧ ∃ r, s'.responses = s.responses ++ [r] ∧ ResponseLegal r ∧
        (responseWord r).extractLsb' 64 4 = r.fc ∧ (responseWord r).extractLsb' 0 64 = r.res

/-- R157: a command that answers with a fault code has recorded it if no fault was recorded, has set `FLT`, and has changed
nothing else of the block; a command that answers with code 0 leaves the fault record alone. -/
def Obligations.FaultChangesOnlyTheFaultRecord : Prop :=
  ∀ (s s' : State) (cw : CommandWord) (rest : List HostMove), s.pending = .command cw :: rest → step s = .next s' →
    ∃ r, s'.responses = s.responses ++ [r] ∧
      (r.fc ≠ 0#4 → r.res = 0#64 ∧ s'.k1 = s.k1 ∧ s'.k2 = s.k2 ∧ s'.sk = s.sk ∧ s'.status.kv = s.status.kv ∧
        s'.status.flt = true ∧ s'.status.fc = if s.status.flt then s.status.fc else r.fc) ∧
      (r.fc = 0#4 → s'.status.flt = s.status.flt ∧ s'.status.fc = s.status.fc)

/-- R156: the three examples of the order of the checks, in every state without a key: index 9 with a must-be-zero bit set
answers 2, index 9 answers 3, index 8 answers 4. -/
def Obligations.RdskFaultOrder : Prop :=
  ∀ s : State, s.status.kv = false →
    (∃ s', step { s with pending := [.command 0x900000000000000000000000000000019#132] } = .next s' ∧
      s'.responses = s.responses ++ [{ fc := 2#4, res := 0#64 }]) ∧
    (∃ s', step { s with pending := [.command 0x900000000000000000000000000000009#132] } = .next s' ∧
      s'.responses = s.responses ++ [{ fc := 3#4, res := 0#64 }]) ∧
    (∃ s', step { s with pending := [.command 0x900000000000000000000000000000008#132] } = .next s' ∧
      s'.responses = s.responses ++ [{ fc := 4#4, res := 0#64 }])

/-! ## Each command's effect: the whole next state, so what is not named is unchanged -/

/-- R140: `NOP` answers 0 in every state and changes nothing of the block. -/
def Obligations.NopAnswersZero : Prop :=
  ∀ s : State, exec .nop s = .next { s with responses := s.responses ++ [{ fc := 0#4, res := 0#64 }] }

/-- R141, R23: `RDST` answers, in every state, `res[0] = KV`, `res[1] = FLT`, `res[5:2] = FC`, zeros above, and clears
nothing. -/
def Obligations.RdstAnswersTheStatus : Prop :=
  ∀ s : State, ∃ res : Word,
    exec .rdst s = .next { s with responses := s.responses ++ [{ fc := 0#4, res := res }] } ∧
      res.getLsbD 0 = s.status.kv ∧ res.getLsbD 1 = s.status.flt ∧ res.extractLsb' 2 4 = s.status.fc ∧
      res.extractLsb' 6 58 = 0#58

/-- R141: where the fault record is legal, the results of `RDST` are 0, 1, and `0x02 OR (FC << 2) OR KV` with `FC` in 1 to 5. -/
def Obligations.RdstResultsAreTheListedOnes : Prop :=
  ∀ s : State, FaultRecordLegal s → ∃ (res : Word) (s' : State),
    exec .rdst s = .next s' ∧ s'.responses = s.responses ++ [{ fc := 0#4, res := res }] ∧
      (res = 0#64 ∨ res = 1#64 ∨
        ∃ fc kv : Nat, 1 ≤ fc ∧ fc ≤ 5 ∧ kv ≤ 1 ∧ res = BitVec.ofNat 64 (2 ||| (fc <<< 2) ||| kv))

/-- R83, R84, R82: `P` and `P8` answer in every state, with or without a key, and change nothing of the block: `P` with `p(x)`
in the low byte and zeros above, `P8` with the word whose byte j is `p` of byte j of the operand. -/
def Obligations.PAndP8AnswerInEveryState : Prop :=
  ∀ s : State,
    (∀ x : Byte, exec (.p x) s =
      .next { s with responses := s.responses ++ [{ fc := 0#4, res := 0#56 ++ p config x }] }) ∧
    (∀ w : Word, ∃ res, exec (.p8 w) s =
      .next { s with responses := s.responses ++ [{ fc := 0#4, res := res }] } ∧
        ∀ j : Fin 8, byte res j = p config (byte w j))

/-- R92, R90: `T` answers in every state, changes nothing of the block, and bit `7 - j` of byte i of its result is bit
`7 - i` of byte j of its operand. -/
def Obligations.TAnswersTheTranspose : Prop :=
  ∀ (s : State) (w : Word), ∃ res, exec (.t w) s =
    .next { s with responses := s.responses ++ [{ fc := 0#4, res := res }] } ∧
      ∀ i j : Fin 8, (byte res i).getLsbD (7 - j.val) = (byte w j).getLsbD (7 - i.val)

/-- R100, R101, R102, R96, R97, R98: `PHI`, `M` and `M8` answer in every state and change nothing of the block: `phi(x)` in the
low byte; the left byte `p(phi(xl) XOR xr)` above the right byte `p(rotl8(xl) XOR xr)` in the low half; `m` on each lane. -/
def Obligations.PhiMAndM8AnswerInEveryState : Prop :=
  ∀ s : State,
    (∀ x : Byte, exec (.phi x) s = .next { s with
      responses := s.responses ++ [{ fc := 0#4, res := 0#56 ++ ((x.rotateLeft 1 &&& 0xAA#8) ^^^ x) }] }) ∧
    (∀ xl xr : Byte, exec (.m xl xr) s = .next { s with
      responses := s.responses ++
        [{ fc := 0#4,
           res := 0#48 ++ p config (((xl.rotateLeft 1 &&& 0xAA#8) ^^^ xl) ^^^ xr) ++
             p config (xl.rotateLeft 1 ^^^ xr) }] }) ∧
    (∀ w : Word, ∃ res, exec (.m8 w) s = .next { s with
      responses := s.responses ++ [{ fc := 0#4, res := res }] } ∧ ∀ q : Fin 4, lane res q = m config (lane w q))

/-- R103, R99: `SXOR` answers in every state, with the XOR of its operands, and changes nothing of the block. -/
def Obligations.SxorAnswersTheXor : Prop :=
  ∀ (s : State) (a b : Word), ∃ res, exec (.sxor a b) s =
    .next { s with responses := s.responses ++ [{ fc := 0#4, res := res }] } ∧
      ∀ j : Fin 8, byte res j = byte a j ^^^ byte b j

/-- R117, R115: `RND` answers in every state, key or no key, and changes nothing of the block; its result is
`m8(m8(w) XOR C) XOR CC`. -/
def Obligations.RndAnswersTheRound : Prop :=
  ∀ (s : State) (w : Word), exec (.rnd w) s = .next { s with
    responses := s.responses ++ [{ fc := 0#4, res := m8 config (m8 config w ^^^ config.C) ^^^ config.CC }] }

/-- R108: `KEYLD` without a key loaded writes `K1`, `K2`, all nine `SK[i]` and `KV` in one step, answers 0, and leaves the fault
record alone. Every operand is a key. -/
def Obligations.KeyldLoadsTheKey : Prop :=
  ∀ (s : State) (k1 k2 : Word), s.status.kv = false →
    exec (.keyld k1 k2) s = .next { s with
      k1 := some k1
      k2 := some k2
      sk := (keysched config k1 k2).map some
      status := { s.status with kv := true }
      responses := s.responses ++ [{ fc := 0#4, res := 0#64 }] }

/-- R32, R108, R151: `KEYLD` with a key loaded faults with code 5 and writes nothing but the fault record. -/
def Obligations.KeyldIsLocked : Prop :=
  ∀ (s : State) (k1 k2 : Word), s.status.kv = true →
    exec (.keyld k1 k2) s = .next { s with
      status := { kv := true, flt := true, fc := if s.status.flt then s.status.fc else 5#4 }
      responses := s.responses ++ [{ fc := 5#4, res := 0#64 }] }

/-- R109: `RDSK` of an index 0 to 8 with a key loaded answers the register and changes nothing of the block; R110: index 8 is
no exception. -/
def Obligations.RdskAnswersTheSubkey : Prop :=
  ∀ (s : State) (idx : Nib) (h : idx.toNat < 9) (v : Word), s.status.kv = true → s.sk[idx.toNat] = some v →
    exec (.rdsk idx) s = .next { s with responses := s.responses ++ [{ fc := 0#4, res := v }] }

/-- R121, R120, R124: `ENC` with a key loaded answers `encrypt_block` of its operand and changes nothing of the block; it
needs `SK[0]` to `SK[7]` only. -/
def Obligations.EncAnswersTheCiphertext : Prop :=
  ∀ (s : State) (w : Word) (sk : Schedule), s.status.kv = true → HoldsRoundKeys s sk →
    exec (.enc w) s =
      .next { s with responses := s.responses ++ [{ fc := 0#4, res := encryptBlock config w sk }] }

/-- R137, R136: `DEC` with a key loaded answers `decrypt_block` of its operand and changes nothing of the block; it needs
`SK[0]` to `SK[7]` only. -/
def Obligations.DecAnswersThePlaintext : Prop :=
  ∀ (s : State) (w : Word) (sk : Schedule), s.status.kv = true → HoldsRoundKeys s sk →
    exec (.dec w) s =
      .next { s with responses := s.responses ++ [{ fc := 0#4, res := decryptBlock config w sk }] }

/-- R31, R71 step 4, R151: `ENC`, `DEC` and `RDSK` of a legal index fault with code 4 while no key is loaded, and change
nothing but the fault record. -/
def Obligations.NoKeyFaults : Prop :=
  ∀ (s : State) (i : Instr), s.status.kv = false →
    ((∃ w, i = .enc w) ∨ (∃ w, i = .dec w) ∨ ∃ idx : Nib, idx.toNat ≤ 8 ∧ i = .rdsk idx) →
    exec i s = .next { s with
      status := { kv := false, flt := true, fc := if s.status.flt then s.status.fc else 4#4 }
      responses := s.responses ++ [{ fc := 4#4, res := 0#64 }] }

/-! ## Laws of the functions, for any constant tables -/

/-- R80: `p` of the byte with high nibble `pl` and low nibble `pr` by the three lookups. -/
def Obligations.PByThreeLookups : Prop :=
  ∀ (cfg : Config) (pl pr u qr ql : Nib),
    u = pl ^^^ romF cfg pr → qr = pr ^^^ romG cfg u → ql = u ^^^ romF cfg qr → p cfg (pl ++ pr) = ql ++ qr

/-- R81 (a), R82, R131 (inferences the spec marks as its own): `p` and `p8` are involutions for any tables, so `p_inv` and
`p8_inv`, which the spec defines as `p` and `p8`, undo them on both sides. -/
def Obligations.PAndP8AreInvolutions : Prop :=
  ∀ cfg : Config, (∀ b : Byte, p cfg (p cfg b) = b ∧ pInv cfg (p cfg b) = b ∧ p cfg (pInv cfg b) = b) ∧
    ∀ w : Word, p8 cfg (p8 cfg w) = w ∧ p8Inv cfg (p8 cfg w) = w ∧ p8 cfg (p8Inv cfg w) = w

/-- R91 (b), (c), (d), (e), R132 (inferences the spec marks as its own): bit `8r + c` of `t(w)` is bit `8c + r` of `w`; `t` is
an involution, so `t_inv`, which the spec defines as `t`, undoes it; `t` is linear over XOR and leaves the diagonal in place. -/
def Obligations.TIsAnInvolutionAndLinear : Prop :=
  (∀ (w : Word) (r c : Fin 8), (t w).getLsbD (8 * r.val + c.val) = w.getLsbD (8 * c.val + r.val)) ∧
    (∀ w : Word, t (t w) = w ∧ tInv (t w) = w ∧ t (tInv w) = w) ∧ (∀ a b : Word, t (a ^^^ b) = t a ^^^ t b) ∧ t 0#64 = 0#64 ∧
    ∀ w : Word, t w &&& 0x8040201008040201#64 = w &&& 0x8040201008040201#64

/-- R96, R104 (a), (b) (inferences the spec marks as its own): `phi` bit by bit, an involution, linear, and
`phi(b) XOR rotl8(b) = psi(b)`, itself an involution. -/
def Obligations.PhiBitByBit : Prop :=
  (∀ (b : Byte) (k : Fin 8), (phi b).getLsbD k.val =
      if k.val % 2 = 1 then b.getLsbD k.val ^^ b.getLsbD (k.val - 1) else b.getLsbD k.val) ∧
    (∀ b : Byte, phi (phi b) = b) ∧ (∀ a b : Byte, phi (a ^^^ b) = phi a ^^^ phi b) ∧
    (∀ b : Byte, phi b ^^^ rotl8 b = psi b) ∧ ∀ b : Byte, psi (psi b) = b

/-- R133, R134, R104 (c), (d) (inferences the spec marks as its own): `m_inv` and `m8_inv` are the inverses of `m` and `m8`
on both sides, for any tables. -/
def Obligations.MAndM8AreBijections : Prop :=
  ∀ cfg : Config, (∀ h : Half, mInv cfg (m cfg h) = h ∧ m cfg (mInv cfg h) = h) ∧
    ∀ w : Word, m8Inv cfg (m8 cfg w) = w ∧ m8 cfg (m8Inv cfg w) = w

/-- R99: `slice_xor` is the bytewise XOR; it is commutative and associative, cancels itself and has 0 as its unit. -/
def Obligations.SliceXorLaws : Prop :=
  (∀ (a b : Word), sliceXor a b = a ^^^ b) ∧
    (∀ (a b : Word) (j : Fin 8), byte (sliceXor a b) j = byte a j ^^^ byte b j) ∧
    (∀ a b : Word, sliceXor a b = sliceXor b a) ∧
    (∀ a b c : Word, sliceXor (sliceXor a b) c = sliceXor a (sliceXor b c)) ∧
    ∀ a : Word, sliceXor a a = 0#64 ∧ sliceXor a 0#64 = a

/-- R105: with `s[-2] = k2` and `s[-1] = k1` (here `prev 0` and `prev 1`, and `prev (i + 2) = sk[i]`), every subkey is
`s[i-2] XOR t(p8(s[i-1] XOR CI[i]))`. -/
def Obligations.KeyScheduleRecurrence : Prop :=
  ∀ (cfg : Config) (k1 k2 : Word), ∃ prev : Nat → Word,
    prev 0 = k2 ∧ prev 1 = k1 ∧ (∀ i : Fin 9, prev (i.val + 2) = (keysched cfg k1 k2)[i]) ∧
      ∀ i : Fin 9, prev (i.val + 2) = prev i.val ^^^ t (p8 cfg (prev (i.val + 1) ^^^ cfg.CI[i]))

/-- R107 (an inference the spec marks as its own): two master keys whose schedules agree at two consecutive places are the
same key, for any tables. -/
def Obligations.TwoSubkeysDetermineTheKey : Prop :=
  ∀ (cfg : Config) (k1 k2 k1' k2' : Word) (i : Fin 8),
    (keysched cfg k1 k2)[i.val] = (keysched cfg k1' k2')[i.val] →
    (keysched cfg k1 k2)[i.val + 1] = (keysched cfg k1' k2')[i.val + 1] → k1 = k1' ∧ k2 = k2'

/-- R118 (a), R135 (inferences the spec marks as its own): `round_inv` is the inverse of `round` on both sides, for any
tables. -/
def Obligations.RoundIsABijection : Prop :=
  ∀ (cfg : Config) (x : Word), cipherRoundInv cfg (cipherRound cfg x) = x ∧ cipherRound cfg (cipherRoundInv cfg x) = x

/-- R118 (b), R125 (b), R138 (inferences the spec marks as its own): lane q of the result of a round, of an encryption and of
a decryption depends only on lane q of the operand and of the subkeys `sk[0]` to `sk[7]`. -/
def Obligations.LanesAreIndependent : Prop :=
  ∀ (cfg : Config) (q : Fin 4) (x x' : Word), lane x q = lane x' q →
    lane (cipherRound cfg x) q = lane (cipherRound cfg x') q ∧
    ∀ sk sk' : Schedule, (∀ j : Fin 8, lane sk[j.val] q = lane sk'[j.val] q) →
      lane (encryptBlock cfg x sk) q = lane (encryptBlock cfg x' sk') q ∧
      lane (decryptBlock cfg x sk) q = lane (decryptBlock cfg x' sk') q

/-- R120: `m0 = B`, `m(r+1) = round(m(r) XOR sk[r])` for r = 0 to 6, and the ciphertext is `m7 XOR sk[7]`. -/
def Obligations.EncryptionIsSevenRoundsAndAWhitening : Prop :=
  ∀ (cfg : Config) (b : Word) (sk : Schedule), ∃ mid : Nat → Word, mid 0 = b ∧
    (∀ r : Fin 7, mid (r.val + 1) = cipherRound cfg (mid r.val ^^^ sk[r.val])) ∧
    encryptBlock cfg b sk = mid 7 ^^^ sk[7]

/-- R130, R138 (the second an inference the spec marks as its own): decryption and encryption under one schedule undo each
other, for any schedule and any tables. -/
def Obligations.DecryptionInvertsEncryption : Prop :=
  ∀ (cfg : Config) (sk : Schedule) (b : Word),
    decryptBlock cfg (encryptBlock cfg b sk) sk = b ∧ encryptBlock cfg (decryptBlock cfg b sk) sk = b

/-! ## Invariants -/

/-- R30: the state after reset, and the invariants hold there. -/
def Obligations.ResetState : Prop :=
  State.reset.k1 = none ∧ State.reset.k2 = none ∧ (∀ i : Fin 9, State.reset.sk[i] = none) ∧
    statusWord State.reset.status = 0#64 ∧
    (∀ cfg : Config, KeyConsistent cfg State.reset) ∧ FaultRecordLegal State.reset ∧ ResponsesLegal State.reset ∧
    RecordedFaultWasAnswered State.reset

/-- R22, R31: every step keeps it that either `KV` is 0 and all eleven key registers are unwritten, or `KV` is 1 and they hold
a master key and its schedule; under the default tables, and in an instance with any tables. -/
def Obligations.StepKeepsTheKeysConsistent : Prop :=
  (∀ s s' : State, KeyConsistent config s → step s = .next s' → KeyConsistent config s') ∧
    ∀ (cfg : Config) (s s' : State), KeyConsistent cfg s → stepOf cfg s = .next s' → KeyConsistent cfg s'

/-- R23, R151, R61, R157: every step keeps it that `FC` is 0 while `FLT` is 0 and 1 to 5 while it is 1, that every response
given is legal, and that a recorded fault has been answered. -/
def Obligations.StepKeepsTheFaultRecordLegal : Prop :=
  ∀ s s' : State, FaultRecordLegal s → ResponsesLegal s → RecordedFaultWasAnswered s → step s = .next s' →
    FaultRecordLegal s' ∧ ResponsesLegal s' ∧ RecordedFaultWasAnswered s'

/-! ## Rules about the whole machine -/

/-- R21, R22, R24: no command but `KEYLD` writes `K1`, `K2`, an `SK[i]` or `KV`; no command takes a move of the host; and a
command only adds to the responses. -/
def Obligations.OnlyKeyldWritesTheKeyRegisters : Prop :=
  ∀ (i : Instr) (s s' : State), exec i s = .next s' →
    s'.pending = s.pending ∧ s.responses <+: s'.responses ∧
      ((∀ k1 k2, i ≠ .keyld k1 k2) →
        s'.k1 = s.k1 ∧ s'.k2 = s.k2 ∧ s'.sk = s.sk ∧ s'.status.kv = s.status.kv)

/-- R32: while `KV` is 1, no step but a reset changes `K1`, `K2`, any `SK[i]` or `KV`, and a `KEYLD` issued then answers
`KEY_LOCKED`. -/
def Obligations.LoadedKeyIsImmutable : Prop :=
  ∀ s s' : State, s.status.kv = true → (∀ rest, s.pending ≠ .reset :: rest) → step s = .next s' →
    s'.k1 = s.k1 ∧ s'.k2 = s.k2 ∧ s'.sk = s.sk ∧ s'.status.kv = true ∧
      ∀ k1 k2 rest, s.pending = .command (encode (.keyld k1 k2)) :: rest →
        s'.responses = s.responses ++ [{ fc := 5#4, res := 0#64 }]

/-- R158, R170: once a fault is recorded, no step but a reset clears `FLT` or changes `FC`. -/
def Obligations.OnlyResetClearsTheFaultRecord : Prop :=
  ∀ s s' : State, s.status.flt = true → (∀ rest, s.pending ≠ .reset :: rest) → step s = .next s' →
    s'.status.flt = true ∧ s'.status.fc = s.status.fc

/-- R26, R158: but for `RDST`, no command behaves differently because a fault is recorded: it gives the same response and
the same key registers. -/
def Obligations.FaultRecordChangesNoCommand : Prop :=
  ∀ (i : Instr) (s : State) (flt : Bool) (fc : BitVec 4), i ≠ .rdst →
    ∃ r s1 s2, exec i s = .next s1 ∧ exec i { s with status := { s.status with flt := flt, fc := fc } } = .next s2 ∧
      s1.responses = s.responses ++ [r] ∧ s2.responses = s.responses ++ [r] ∧
      s1.k1 = s2.k1 ∧ s1.k2 = s2.k2 ∧ s1.sk = s2.sk ∧ s1.status.kv = s2.status.kv

/-- R21, R110, R124: no response depends on `K1` or `K2`: two states that differ in these two registers only answer every
command alike. And no response but that of `RDSK #8` depends on `SK[8]`: two states that differ in these three registers only
answer every other command alike. -/
def Obligations.UnreadRegistersAreNotObserved : Prop :=
  (∀ (i : Instr) (s : State) (k1 k2 : Option Word),
    ∃ r s1 s2, exec i s = .next s1 ∧ exec i { s with k1 := k1, k2 := k2 } = .next s2 ∧
      s1.responses = s.responses ++ [r] ∧ s2.responses = s.responses ++ [r] ∧ s1.status = s2.status) ∧
  ∀ (i : Instr) (s : State) (k1 k2 sk8 : Option Word), i ≠ .rdsk 8#4 →
    ∃ r s1 s2, exec i s = .next s1 ∧ exec i { s with k1 := k1, k2 := k2, sk := s.sk.set 8 sk8 } = .next s2 ∧
      s1.responses = s.responses ++ [r] ∧ s2.responses = s.responses ++ [r] ∧ s1.status = s2.status

/-- R28: the response to a command, and what it leaves in the block's registers, depend on the command and those registers
alone, not on earlier responses or on what the host does later. -/
def Obligations.NoHiddenState : Prop :=
  ∀ (i : Instr) (s s' : State), s.k1 = s'.k1 → s.k2 = s'.k2 → s.sk = s'.sk → s.status = s'.status →
    ∃ r u u', exec i s = .next u ∧ exec i s' = .next u' ∧
      u.responses = s.responses ++ [r] ∧ u'.responses = s'.responses ++ [r] ∧
      u.k1 = u'.k1 ∧ u.k2 = u'.k2 ∧ u.sk = u'.sk ∧ u.status = u'.status

/-- R138, R130 at the interface: in an instance with any tables, with a key loaded, `ENC` of a word and then `DEC` of its result
answers the word. -/
def Obligations.EncThenDecAnswersTheBlock : Prop :=
  ∀ (cfg : Config) (s : State) (w : Word), KeyLoaded cfg s → ∃ c s1 s2,
    execOf cfg (.enc w) s = .next s1 ∧ s1.responses = s.responses ++ [{ fc := 0#4, res := c }] ∧
      execOf cfg (.dec c) s1 = .next s2 ∧ s2.responses = s1.responses ++ [{ fc := 0#4, res := w }]

/-- R177: over any number of moves without a reset, every response has code 0 exactly when no fault is recorded, if it was
so before. -/
def Obligations.GoodRunIsNoFaultRecorded : Prop :=
  ∀ (n : Nat) (s s' : State), (GoodRun s ↔ s.status.flt = false) → HostMove.reset ∉ s.pending →
    core.run n s = .next s' → (GoodRun s' ↔ s'.status.flt = false)

/-! ## The tables as an argument -/

/-- `exec`, `step` and `core` are the instance with the default tables. This is the model's choice (PRESUMED, logs 3 and 4) and
no rule of the spec, which has the model take the tables as an argument (spec/00_scope.md section 4), as `execOf`, `stepOf` and
`coreOf` do. -/
def Obligations.MachineIsTheDefaultInstance : Prop :=
  (∀ (i : Instr) (s : State), exec i s = execOf config i s) ∧ (∀ s : State, step s = stepOf config s) ∧
    core = coreOf config

/-- R5, R29: in an instance with any tables every command completes as its rule says, with those tables: the eight commands
that read a table by the function under `cfg`, the others and every fault as `exec` gives them; and a step runs the decoded
command of that instance, or does what `step` does where there is none. -/
def Obligations.CommandsRunUnderAnyTables : Prop :=
  ∀ (cfg : Config) (s : State),
    (∀ x : Byte, execOf cfg (.p x) s =
      .next { s with responses := s.responses ++ [{ fc := 0#4, res := 0#56 ++ p cfg x }] }) ∧
    (∀ xl xr : Byte, execOf cfg (.m xl xr) s =
      .next { s with responses := s.responses ++ [{ fc := 0#4, res := 0#48 ++ m cfg (xl ++ xr) }] }) ∧
    (∀ w : Word,
      execOf cfg (.p8 w) s = .next { s with responses := s.responses ++ [{ fc := 0#4, res := p8 cfg w }] } ∧
      execOf cfg (.m8 w) s = .next { s with responses := s.responses ++ [{ fc := 0#4, res := m8 cfg w }] } ∧
      execOf cfg (.rnd w) s =
        .next { s with responses := s.responses ++ [{ fc := 0#4, res := cipherRound cfg w }] }) ∧
    (∀ k1 k2 : Word, s.status.kv = false → execOf cfg (.keyld k1 k2) s = .next { s with
      k1 := some k1
      k2 := some k2
      sk := (keysched cfg k1 k2).map some
      status := { s.status with kv := true }
      responses := s.responses ++ [{ fc := 0#4, res := 0#64 }] }) ∧
    (∀ (w : Word) (sk : Schedule), s.status.kv = true → HoldsRoundKeys s sk →
      execOf cfg (.enc w) s =
        .next { s with responses := s.responses ++ [{ fc := 0#4, res := encryptBlock cfg w sk }] } ∧
      execOf cfg (.dec w) s =
        .next { s with responses := s.responses ++ [{ fc := 0#4, res := decryptBlock cfg w sk }] }) ∧
    (∀ k1 k2 : Word, s.status.kv = true → execOf cfg (.keyld k1 k2) s = exec (.keyld k1 k2) s) ∧
    (∀ w : Word, s.status.kv = false →
      execOf cfg (.enc w) s = exec (.enc w) s ∧ execOf cfg (.dec w) s = exec (.dec w) s) ∧
    (execOf cfg .nop s = exec .nop s ∧ execOf cfg .rdst s = exec .rdst s ∧
      (∀ w : Word, execOf cfg (.t w) s = exec (.t w) s) ∧ (∀ x : Byte, execOf cfg (.phi x) s = exec (.phi x) s) ∧
      (∀ a b : Word, execOf cfg (.sxor a b) s = exec (.sxor a b) s) ∧
      ∀ idx : Nib, execOf cfg (.rdsk idx) s = exec (.rdsk idx) s) ∧
    (∀ cw rest i, s.pending = .command cw :: rest → decode cw = .ok i →
      stepOf cfg s = execOf cfg i { s with pending := rest }) ∧
    ((∀ cw rest, s.pending = .command cw :: rest → ∃ c, decode cw = .error c) → stepOf cfg s = step s)

/-! ## The host's boundary -/

/-- R46, R47: a key source of at most 16 bytes is padded with zero bytes on the right and read big-endian, bytes 0 to 7 as
`k1` and bytes 8 to 15 as `k2`; a longer one is an error and no command. -/
def Obligations.KeyBytesArePadded : Prop :=
  ∀ kb : List Byte,
    (kb.length ≤ 16 → ∃ k1 k2, keyldb kb = .ok (.keyld k1 k2) ∧
      ∀ j : Fin 8, byte k1 j = (kb ++ List.replicate 16 0#8).getD j.val 0#8 ∧
        byte k2 j = (kb ++ List.replicate 16 0#8).getD (8 + j.val) 0#8) ∧
    (16 < kb.length → keyldb kb = .error .keyMaterialTooLong)

/-- R48, R49: an input of a multiple of 8 bytes is cut into blocks, block n the word of bytes 8n to 8n+7, and writing the bytes
of the blocks gives the input back; any other length is refused. -/
def Obligations.StreamIsCutIntoWholeBlocks : Prop :=
  ∀ input : List Byte,
    (input.length % 8 = 0 → ∃ ws, blocksOfBytes input = .ok ws ∧ 8 * ws.length = input.length ∧
      bytesOfBlocks ws = input ∧
      ∀ (n : Nat) (hn : n < ws.length) (j : Fin 8), byte ws[n] j = input.getD (8 * n + j.val) 0#8) ∧
    (input.length % 8 ≠ 0 → blocksOfBytes input = .error .partialBlock)

/-- R122, R123, R139, R70: for any tables, with a key loaded, `ENCS` and `DECS` answer one result per block in order, each the function of its
own block alone, and leave the block's registers as they are. -/
def Obligations.StreamsAnswerEachBlock : Prop :=
  ∀ (cfg : Config) (ws : List Word) (s : State) (sk : Schedule), s.status.kv = true → HoldsRoundKeys s sk →
    encs cfg ws s = .next { s with
      responses := s.responses ++ ws.map fun w => { fc := 0#4, res := encryptBlock cfg w sk } } ∧
    decs cfg ws s = .next { s with
      responses := s.responses ++ ws.map fun w => { fc := 0#4, res := decryptBlock cfg w sk } }

/-- R70, R156: for any tables, without a key, `ENCS` and `DECS` stop at the first response, which carries code 4; and the host
writes no byte for it (R174 Z1; what the output of a stopped stream holds is the model's choice, log 14). -/
def Obligations.StreamsStopAtTheFirstFault : Prop :=
  ∀ (cfg : Config) (w : Word) (ws : List Word) (s : State), s.status.kv = false →
    (∃ s', encs cfg (w :: ws) s = .next s' ∧ s'.responses = s.responses ++ [{ fc := 4#4, res := 0#64 }] ∧
      outputBytes s.responses.length s' = []) ∧
    (∃ s', decs cfg (w :: ws) s = .next s' ∧ s'.responses = s.responses ++ [{ fc := 4#4, res := 0#64 }] ∧
      outputBytes s.responses.length s' = [])

/-- R70, R116: for any tables, `KRND` answers the XOR and then the round of the XOR. -/
def Obligations.KrndIsARoundWithASubkey : Prop :=
  ∀ (cfg : Config) (s : State) (x k : Word), krnd cfg x k s = .next { s with
    responses := s.responses ++ [{ fc := 0#4, res := x ^^^ k }, { fc := 0#4, res := kround cfg x k }] }

/-- R69, R70: the two written lines of `KRND`, where the second takes the result that the first names, are `KRND`. It holds
whatever has been named before. That lines are terms, and that a label used before (here `v`, where `env` already binds it)
stands for the latest command that bore it, is the model's choice (log 12), and no rule of the spec. -/
def Obligations.KrndLinesAreKrnd : Prop :=
  ∀ (cfg : Config) (s : State) (x k : Word) (env : Named),
    runLines cfg (krndLines x k) env s = .ok (krnd cfg x k s)

/-- R130, R48, R70, R172: for any tables and from any state, an encrypting session on a key source of at most 16 bytes and an
input of whole blocks completes: it leaves the block reset with the padded key loaded, answers the `KEYLD` and then every block
of the input encrypted under the schedule of that key, and writes as many bytes as it read. From any state, a decrypting
session with the same key source on those bytes completes, leaves the same registers, answers the `KEYLD` and then the blocks
of the input, and writes the input back. -/
def Obligations.DecryptSessionRecoversTheInput : Prop :=
  ∀ (cfg : Config) (kb input : List Byte) (s u : State), kb.length ≤ 16 → input.length % 8 = 0 →
    ∃ k1 k2 ws s' u', keyldb kb = .ok (.keyld k1 k2) ∧ blocksOfBytes input = .ok ws ∧
      encryptSession cfg kb input s = .ok (.next s') ∧
      s' = { s with
        k1 := some k1
        k2 := some k2
        sk := (keysched cfg k1 k2).map some
        status := { kv := true, flt := false, fc := 0#4 }
        responses := s.responses ++ { fc := 0#4, res := 0#64 } ::
          ws.map fun w => { fc := 0#4, res := encryptBlock cfg w (keysched cfg k1 k2) } } ∧
      (outputBytes (s.responses.length + 1) s').length = input.length ∧
      decryptSession cfg kb (outputBytes (s.responses.length + 1) s') u = .ok (.next u') ∧
      u' = { u with
        k1 := some k1
        k2 := some k2
        sk := (keysched cfg k1 k2).map some
        status := { kv := true, flt := false, fc := 0#4 }
        responses := u.responses ++ { fc := 0#4, res := 0#64 } :: ws.map fun w => { fc := 0#4, res := w } } ∧
      outputBytes (u.responses.length + 1) u' = input
end

