-- ==== Sys2Proof/Laws/Bytes.lean ====
section
/-!
SUPPORT. Cutting a bit vector into fields and joining the fields undo each other, and cutting goes through XOR
(spec/00_scope.md R8, spec/42_mix_phi_m_m8.md R98).
-/
namespace Sys2Proof.Machine

theorem hi_join (h l : Nib) : hi (h ++ l) = h := by
  unfold hi; ext k hk; simp; grind

theorem lo_join (h l : Nib) : lo (h ++ l) = l := by
  unfold lo; ext k hk; simp; grind

theorem join_nibbles (b : Byte) : hi b ++ lo b = b := by
  unfold hi lo; ext k hk; simp; grind

theorem left_join (h l : Byte) : left (h ++ l) = h := by
  unfold left; ext k hk; simp; grind

theorem right_join (h l : Byte) : right (h ++ l) = l := by
  unfold right; ext k hk; simp; grind

theorem join_halves (h : Half) : left h ++ right h = h := by
  unfold left right; ext k hk; simp; grind

theorem byte_getLsbD (w : Word) (j : Fin 8) (k : Nat) (hk : k < 8) :
    (byte w j).getLsbD k = w.getLsbD (56 - 8 * j.val + k) := by
  simp [byte, hk]

theorem byte_word (b0 b1 b2 b3 b4 b5 b6 b7 : Byte) (j : Fin 8) :
    byte (word b0 b1 b2 b3 b4 b5 b6 b7) j = #v[b0, b1, b2, b3, b4, b5, b6, b7][j] := by
  fin_cases j <;> (ext k hk; simp [byte, word, BitVec.getElem_extractLsb']; grind)

theorem word_bytes (w : Word) :
    word (byte w 0) (byte w 1) (byte w 2) (byte w 3) (byte w 4) (byte w 5) (byte w 6) (byte w 7) = w := by
  ext k hk; simp [byte, word]; grind

theorem word_ext_bytes {a b : Word} (h : ∀ j : Fin 8, byte a j = byte b j) : a = b := by
  rw [← word_bytes a, ← word_bytes b, h 0, h 1, h 2, h 3, h 4, h 5, h 6, h 7]

theorem byte_xor (a b : Word) (j : Fin 8) : byte (a ^^^ b) j = byte a j ^^^ byte b j := by
  simp [byte, BitVec.extractLsb'_xor]

theorem lane_ofLanes (h0 h1 h2 h3 : Half) (q : Fin 4) : lane (ofLanes h0 h1 h2 h3) q = #v[h0, h1, h2, h3][q] := by
  fin_cases q <;> (ext k hk; simp [lane, ofLanes, BitVec.getElem_extractLsb']; grind)

theorem ofLanes_lanes (w : Word) : ofLanes (lane w 0) (lane w 1) (lane w 2) (lane w 3) = w := by
  ext k hk; simp [lane, ofLanes]; grind

theorem word_ext_lanes {a b : Word} (h : ∀ q : Fin 4, lane a q = lane b q) : a = b := by
  rw [← ofLanes_lanes a, ← ofLanes_lanes b, h 0, h 1, h 2, h 3]

theorem lane_xor (a b : Word) (q : Fin 4) : lane (a ^^^ b) q = lane a q ^^^ lane b q := by
  simp [lane, BitVec.extractLsb'_xor]

end Sys2Proof.Machine
end

