-- ==== Sys2Proof/Laws/Decode.lean ====
section
/-!
SUPPORT. The fields of a command word and of its operand field, cut and joined (spec/30_encoding.md R60, R62, R66).
-/
namespace Sys2Proof

theorem opField_join (op : BitVec 4) (arg : Arg) : opField (op ++ arg) = op := by
  unfold opField; ext k hk; simp; grind

theorem argField_join (op : BitVec 4) (arg : Arg) : argField (op ++ arg) = arg := by
  unfold argField; ext k hk; simp; grind

theorem join_fields (cw : CommandWord) : opField cw ++ argField cw = cw := by
  apply BitVec.eq_of_getLsbD_eq
  intro k hk
  rw [BitVec.getLsbD_append]
  unfold opField argField
  split <;> rename_i h
  · simp [h]
  · have hk' : k - 128 < 4 := by omega
    simp [hk', show 128 + (k - 128) = k by omega]

theorem argByteLow_setWidth (x : Byte) : argByteLow (x.setWidth 128) = x := by
  unfold argByteLow; ext k hk; simp; grind

theorem argIndex_setWidth (x : Nib) : argIndex (x.setWidth 128) = x := by
  unfold argIndex; ext k hk; simp; grind

theorem argWordLow_setWidth (x : Word) : argWordLow (x.setWidth 128) = x := by
  unfold argWordLow; ext k hk; simp; grind

theorem argByteHigh_join (a b : Byte) : argByteHigh ((a ++ b).setWidth 128) = a := by
  unfold argByteHigh; ext k hk; simp; grind

theorem argByteLow_join (a b : Byte) : argByteLow ((a ++ b).setWidth 128) = b := by
  unfold argByteLow; ext k hk; simp; grind

theorem argWordHigh_join (a b : Word) : argWordHigh (a ++ b) = a := by
  unfold argWordHigh; ext k hk; simp; grind

theorem argWordLow_join (a b : Word) : argWordLow (a ++ b) = b := by
  unfold argWordLow; ext k hk; simp; grind

theorem join_argWords (arg : Arg) : argWordHigh arg ++ argWordLow arg = arg := by
  apply BitVec.eq_of_getLsbD_eq
  intro k hk
  rw [BitVec.getLsbD_append]
  unfold argWordHigh argWordLow
  split <;> rename_i h
  · simp [h]
  · have hk' : k - 64 < 64 := by omega
    simp [hk', show 64 + (k - 64) = k by omega]

theorem join_argBytes (arg : Arg) : argByteHigh arg ++ argByteLow arg = arg.extractLsb' 0 16 := by
  unfold argByteHigh argByteLow; ext k hk; simp; grind

/-- Where the bits from `n` up are zero, the low `n` bits are the whole operand field. -/
theorem setWidth_of_clear {n : Nat} (arg : Arg) (h : arg >>> n = 0#128) :
    (arg.extractLsb' 0 n).setWidth 128 = arg := by
  apply BitVec.eq_of_getLsbD_eq
  intro k hk
  have := congrArg (fun v => v.getLsbD (k - n)) h
  simp at this ⊢
  grind

/-- The must-be-zero check, said of the bits of the command word. -/
theorem mbzClear_iff (fmt : Format) (cw : CommandWord) :
    mbzClear fmt (argField cw) = true ↔ cw.extractLsb' (operandWidth fmt) (128 - operandWidth fmt) = 0 := by
  have key : ∀ n, n ≤ 128 → ((argField cw) >>> n = 0#128 ↔ cw.extractLsb' n (128 - n) = 0) := by
    intro n hn
    constructor
    · intro h
      apply BitVec.eq_of_getLsbD_eq
      intro k hk
      have := congrArg (fun v => v.getLsbD k) h
      simp [argField] at this ⊢; grind
    · intro h
      apply BitVec.eq_of_getLsbD_eq
      intro k hk
      have := congrArg (fun v => v.getLsbD k) h
      simp [argField] at this ⊢; grind
  unfold mbzClear
  rw [decide_eq_true_iff]
  exact key _ (by cases fmt <;> decide)

end Sys2Proof
end

