-- ==== Sys2Proof/Laws/State.lean ====
section
/-!
SUPPORT. One lemma per field per update of the state, so that no proof unfolds a record update.
-/
namespace Sys2Proof.Machine

@[simp] theorem answer_k1 (r : Response) (s : State) : (answer r s).k1 = s.k1 := rfl
@[simp] theorem answer_k2 (r : Response) (s : State) : (answer r s).k2 = s.k2 := rfl
@[simp] theorem answer_sk (r : Response) (s : State) : (answer r s).sk = s.sk := rfl
@[simp] theorem answer_status (r : Response) (s : State) : (answer r s).status = s.status := rfl
@[simp] theorem answer_pending (r : Response) (s : State) : (answer r s).pending = s.pending := rfl
@[simp] theorem answer_responses (r : Response) (s : State) : (answer r s).responses = s.responses ++ [r] := rfl

@[simp] theorem takeMove_k1 (rest : List HostMove) (s : State) : (takeMove rest s).k1 = s.k1 := rfl
@[simp] theorem takeMove_k2 (rest : List HostMove) (s : State) : (takeMove rest s).k2 = s.k2 := rfl
@[simp] theorem takeMove_sk (rest : List HostMove) (s : State) : (takeMove rest s).sk = s.sk := rfl
@[simp] theorem takeMove_status (rest : List HostMove) (s : State) : (takeMove rest s).status = s.status := rfl
@[simp] theorem takeMove_pending (rest : List HostMove) (s : State) : (takeMove rest s).pending = rest := rfl
@[simp] theorem takeMove_responses (rest : List HostMove) (s : State) :
    (takeMove rest s).responses = s.responses := rfl

@[simp] theorem present_k1 (mv : HostMove) (s : State) : (present mv s).k1 = s.k1 := rfl
@[simp] theorem present_k2 (mv : HostMove) (s : State) : (present mv s).k2 = s.k2 := rfl
@[simp] theorem present_sk (mv : HostMove) (s : State) : (present mv s).sk = s.sk := rfl
@[simp] theorem present_status (mv : HostMove) (s : State) : (present mv s).status = s.status := rfl
@[simp] theorem present_pending (mv : HostMove) (s : State) : (present mv s).pending = mv :: s.pending := rfl
@[simp] theorem present_responses (mv : HostMove) (s : State) : (present mv s).responses = s.responses := rfl

/-- A move presented and then taken leaves the state as it was. -/
@[simp] theorem takeMove_present (mv : HostMove) (s : State) : takeMove s.pending (present mv s) = s := rfl

@[simp] theorem resetBlock_k1 (s : State) : (resetBlock s).k1 = none := rfl
@[simp] theorem resetBlock_k2 (s : State) : (resetBlock s).k2 = none := rfl
@[simp] theorem resetBlock_sk (s : State) : (resetBlock s).sk = State.reset.sk := rfl
@[simp] theorem resetBlock_status (s : State) : (resetBlock s).status = State.reset.status := rfl
@[simp] theorem resetBlock_pending (s : State) : (resetBlock s).pending = s.pending := rfl
@[simp] theorem resetBlock_responses (s : State) : (resetBlock s).responses = s.responses := rfl

@[simp] theorem writeKeys_k1 (k1 k2 : Word) (sk : Schedule) (s : State) : (writeKeys k1 k2 sk s).k1 = some k1 := rfl
@[simp] theorem writeKeys_k2 (k1 k2 : Word) (sk : Schedule) (s : State) : (writeKeys k1 k2 sk s).k2 = some k2 := rfl
@[simp] theorem writeKeys_status (k1 k2 : Word) (sk : Schedule) (s : State) :
    (writeKeys k1 k2 sk s).status = setKeyValid s.status := rfl
@[simp] theorem writeKeys_pending (k1 k2 : Word) (sk : Schedule) (s : State) :
    (writeKeys k1 k2 sk s).pending = s.pending := rfl
@[simp] theorem writeKeys_responses (k1 k2 : Word) (sk : Schedule) (s : State) :
    (writeKeys k1 k2 sk s).responses = s.responses := rfl

/-- `KEYLD` writes all nine subkey registers. -/
theorem writeKeys_sk (k1 k2 : Word) (sk : Schedule) (s : State) (i : Fin 9) :
    (writeKeys k1 k2 sk s).sk[i] = some sk[i] := by
  fin_cases i <;> rfl

@[simp] theorem setKeyValid_kv (st : Status) : (setKeyValid st).kv = true := rfl
@[simp] theorem setKeyValid_flt (st : Status) : (setKeyValid st).flt = st.flt := rfl
@[simp] theorem setKeyValid_fc (st : Status) : (setKeyValid st).fc = st.fc := rfl

@[simp] theorem recordFault_kv (c : FaultName) (st : Status) : (recordFault c st).kv = st.kv := rfl
@[simp] theorem recordFault_flt (c : FaultName) (st : Status) : (recordFault c st).flt = true := rfl
@[simp] theorem recordFault_fc (c : FaultName) (st : Status) :
    (recordFault c st).fc = if st.flt then st.fc else faultCode c := rfl

/-- Every subkey register is unwritten after reset (R30). -/
theorem reset_sk (i : Fin 9) : State.reset.sk[i] = none := by
  fin_cases i <;> rfl

end Sys2Proof.Machine
end

