-- ==== Sys2Proof/Laws/Ops.lean ====
section
/-!
SUPPORT. What each shared operation can answer, said once (spec/60_exceptions.md R150, R157): the proofs cite these and do
not unfold the operations.
-/
namespace Sys2Proof.Machine

theorem respond_eq (v : Word) (s : State) : respond v s = .next (answer { fc := 0#4, res := v } s) := rfl

theorem raise_eq (c : FaultName) (s : State) :
    raise c s =
      .next (answer { fc := faultCode c, res := 0#64 } { s with status := recordFault c s.status }) := rfl

/-- No fault has code 0. -/
theorem faultCode_ne_zero (c : FaultName) : faultCode c ≠ 0#4 := by cases c <;> decide

theorem faultCode_range (c : FaultName) : 1 ≤ (faultCode c).toNat ∧ (faultCode c).toNat ≤ 5 := by
  cases c <;> decide

theorem faultCode_injective {c d : FaultName} (h : faultCode c = faultCode d) : c = d := by
  cases c <;> cases d <;> first | rfl | exact absurd h (by decide)

theorem withKey_of_key {α : Type} {read : Option α} {v : α} {s : State} (result : α → Word)
    (hkv : s.status.kv = true) (hread : read = some v) : withKey read result s = respond (result v) s := by
  simp [withKey, hkv, hread]

theorem withKey_of_no_key {α : Type} {s : State} (read : Option α) (result : α → Word)
    (hkv : s.status.kv = false) : withKey read result s = raise .noKey s := by
  simp [withKey, hkv]

/-- A command that needs the key answers with a result or raises `NO_KEY`. -/
theorem withKey_cases {α : Type} (read : Option α) (result : α → Word) (s : State) :
    (s.status.kv = true ∧ ∃ v, read = some v ∧ withKey read result s = respond (result v) s) ∨
      withKey read result s = raise .noKey s := by
  cases hkv : s.status.kv with
  | false => exact .inr (withKey_of_no_key read result hkv)
  | true =>
    cases hread : read with
    | none => exact .inr (by simp [withKey, hkv])
    | some v => exact .inl ⟨rfl, v, rfl, by simp [withKey, hkv]⟩

theorem readRoundKeys_of_written {s : State} {rk : RoundKeys} (h0 : s.sk[0] = some rk[0]) (h1 : s.sk[1] = some rk[1])
    (h2 : s.sk[2] = some rk[2]) (h3 : s.sk[3] = some rk[3]) (h4 : s.sk[4] = some rk[4]) (h5 : s.sk[5] = some rk[5])
    (h6 : s.sk[6] = some rk[6]) (h7 : s.sk[7] = some rk[7]) :
    readRoundKeys s = some #v[rk[0], rk[1], rk[2], rk[3], rk[4], rk[5], rk[6], rk[7]] := by
  simp only [readRoundKeys, h0, h1, h2, h3, h4, h5, h6, h7]

theorem readSubkey_of_legal {idx : Nib} (h : idx.toNat < 9) (s : State) : readSubkey idx s = s.sk[idx.toNat] := by
  simp [readSubkey, h]

/-- Everything a command can do in an instance: answer with fault code 0 and leave the block as it is, load a key, or raise a
fault. -/
theorem execOf_cases (cfg : Config) (i : Instr) (s : State) :
    (∃ v, execOf cfg i s = respond v s) ∨
      (∃ k1 k2, i = .keyld k1 k2 ∧ s.status.kv = false ∧
        execOf cfg i s = respond 0#64 (writeKeys k1 k2 (keysched cfg k1 k2) s)) ∨
      ∃ c, execOf cfg i s = raise c s := by
  cases i with
  | keyld k1 k2 =>
    cases hkv : s.status.kv with
    | false => exact .inr (.inl ⟨k1, k2, rfl, rfl, by simp [execOf, execKeyldOf, hkv]⟩)
    | true => exact .inr (.inr ⟨.keyLocked, by simp [execOf, execKeyldOf, hkv]⟩)
  | rdsk idx =>
    cases hidx : legalIndex idx with
    | false => exact .inr (.inr ⟨.badIndex, by simp [execOf, execRdsk, hidx]⟩)
    | true =>
      rcases withKey_cases (readSubkey idx s) id s with ⟨-, v, -, h⟩ | h
      · exact .inl ⟨v, by simpa [execOf, execRdsk, hidx] using h⟩
      · exact .inr (.inr ⟨.noKey, by simpa [execOf, execRdsk, hidx] using h⟩)
  | enc w =>
    rcases withKey_cases (readRoundKeys s) (encryptWith cfg w) s with ⟨-, v, -, h⟩ | h
    · exact .inl ⟨_, h⟩
    · exact .inr (.inr ⟨.noKey, h⟩)
  | dec w =>
    rcases withKey_cases (readRoundKeys s) (decryptWith cfg w) s with ⟨-, v, -, h⟩ | h
    · exact .inl ⟨_, h⟩
    · exact .inr (.inr ⟨.noKey, h⟩)
  | _ => exact .inl ⟨_, rfl⟩

/-- Everything a command can do under the default tables. -/
theorem exec_cases (i : Instr) (s : State) :
    (∃ v, exec i s = respond v s) ∨
      (∃ k1 k2, i = .keyld k1 k2 ∧ s.status.kv = false ∧
        exec i s = respond 0#64 (writeKeys k1 k2 (keysched config k1 k2) s)) ∨
      ∃ c, exec i s = raise c s := by
  have h := execOf_cases config i s
  cases i <;> exact h

/-- Everything a step can do, whatever the commands mean (R54, R166, R170). -/
theorem stepBy_cases (run : Instr → State → Host.Outcome State Fault Refusal) (s : State) :
    (s.pending = [] ∧ stepBy run s = .next s) ∨
      (∃ rest, s.pending = .reset :: rest ∧ stepBy run s = .next (resetBlock (takeMove rest s))) ∨
      (∃ cw rest c, s.pending = .command cw :: rest ∧ decode cw = .error c ∧ stepBy run s = raise c (takeMove rest s)) ∨
      ∃ cw rest i, s.pending = .command cw :: rest ∧ decode cw = .ok i ∧ stepBy run s = run i (takeMove rest s) := by
  rcases hp : s.pending with _ | ⟨_ | _, rest⟩
  · exact .inl ⟨rfl, by simp [stepBy, nextEvent, hp]⟩
  · rename_i cw
    cases hd : decode cw with
    | error c => exact .inr (.inr (.inl ⟨cw, rest, c, rfl, hd, by simp [stepBy, nextEvent, hp, hd]⟩))
    | ok i => exact .inr (.inr (.inr ⟨cw, rest, i, rfl, hd, by simp [stepBy, nextEvent, hp, hd]⟩))
  · exact .inr (.inl ⟨rest, rfl, by simp [stepBy, nextEvent, hp]⟩)

/-- Everything a step can do under the default tables. -/
theorem step_cases (s : State) :
    (s.pending = [] ∧ step s = .next s) ∨
      (∃ rest, s.pending = .reset :: rest ∧ step s = .next (resetBlock (takeMove rest s))) ∨
      (∃ cw rest c, s.pending = .command cw :: rest ∧ decode cw = .error c ∧ step s = raise c (takeMove rest s)) ∨
      ∃ cw rest i, s.pending = .command cw :: rest ∧ decode cw = .ok i ∧ step s = exec i (takeMove rest s) :=
  stepBy_cases exec s

/-- Everything a step of an instance can do. -/
theorem stepOf_cases (cfg : Config) (s : State) :
    (s.pending = [] ∧ stepOf cfg s = .next s) ∨
      (∃ rest, s.pending = .reset :: rest ∧ stepOf cfg s = .next (resetBlock (takeMove rest s))) ∨
      (∃ cw rest c, s.pending = .command cw :: rest ∧ decode cw = .error c ∧ stepOf cfg s = raise c (takeMove rest s)) ∨
      ∃ cw rest i, s.pending = .command cw :: rest ∧ decode cw = .ok i ∧ stepOf cfg s = execOf cfg i (takeMove rest s) :=
  stepBy_cases (execOf cfg) s

end Sys2Proof.Machine
end

