-- ==== Sys2Proof/Laws/PerInstr.lean ====
section
/-!
SUPPORT. What is said of every command as syntax, one lemma per constructor: the two fields of its command word, and that
the bits its format does not use are zero (spec/30_encoding.md R60, R62, R66).
-/
namespace Sys2Proof.Laws.Encoding

/-- The word of a command carries its opcode and its operand field, and the must-be-zero bits of its format are zero. -/
def Statement (i : Instr) : Prop :=
  opField (encode i) = opcode i ∧ argField (encode i) = operandField i ∧
    mbzClear (formatOf i) (argField (encode i)) = true

theorem opField_encode (i : Instr) : opField (encode i) = opcode i := by
  unfold opField encode; ext k hk; simp; grind

theorem argField_encode (i : Instr) : argField (encode i) = operandField i := by
  unfold argField encode; ext k hk; simp; grind

/-- An operand of `n` bits, right-aligned, leaves the bits from `n` up at zero. -/
theorem setWidth_shift {n : Nat} (x : BitVec n) : (x.setWidth 128) >>> n = 0#128 := by
  ext k hk; simp

theorem statement_of_clear (i : Instr) (h : mbzClear (formatOf i) (operandField i) = true) : Statement i :=
  ⟨opField_encode i, argField_encode i, by rw [argField_encode]; exact h⟩

theorem nop : Statement .nop := statement_of_clear _ rfl
theorem p (x : Byte) : Statement (.p x) :=
  statement_of_clear _ (decide_eq_true (setWidth_shift x))
theorem p8 (w : Word) : Statement (.p8 w) :=
  statement_of_clear _ (decide_eq_true (setWidth_shift w))
theorem t (w : Word) : Statement (.t w) :=
  statement_of_clear _ (decide_eq_true (setWidth_shift w))
theorem phi (x : Byte) : Statement (.phi x) :=
  statement_of_clear _ (decide_eq_true (setWidth_shift x))
theorem m (xl xr : Byte) : Statement (.m xl xr) :=
  statement_of_clear _ (decide_eq_true (setWidth_shift (xl ++ xr)))
theorem m8 (w : Word) : Statement (.m8 w) :=
  statement_of_clear _ (decide_eq_true (setWidth_shift w))
theorem sxor (a b : Word) : Statement (.sxor a b) :=
  statement_of_clear _ (decide_eq_true (by ext k hk; simp [formatOf, operandWidth, operandField]))
theorem keyld (k1 k2 : Word) : Statement (.keyld k1 k2) :=
  statement_of_clear _ (decide_eq_true (by ext k hk; simp [formatOf, operandWidth, operandField]))
theorem rdsk (idx : Nib) : Statement (.rdsk idx) :=
  statement_of_clear _ (decide_eq_true (setWidth_shift idx))
theorem rnd (w : Word) : Statement (.rnd w) :=
  statement_of_clear _ (decide_eq_true (setWidth_shift w))
theorem enc (w : Word) : Statement (.enc w) :=
  statement_of_clear _ (decide_eq_true (setWidth_shift w))
theorem dec (w : Word) : Statement (.dec w) :=
  statement_of_clear _ (decide_eq_true (setWidth_shift w))
theorem rdst : Statement .rdst := statement_of_clear _ rfl

end Sys2Proof.Laws.Encoding
end

