-- ==== Sys2Proof/Tests/Slice0.lean ====
section
/-!
SUPPORT. The model's own tests: expected values are those of spec/95_test_vectors.md and of the examples in the rules, named
beside each test; and for every statement with hypotheses a witness that meets them all. Vectors of `RND`, `ENC` and `DEC`
rest on the default `C` and `CC` (log 4).
-/
namespace Sys2Proof.Tests

open Sys2Proof.Machine Sys2Proof.Safety

/-- The latest response word of an outcome. -/
def lastWord (o : Host.Outcome State Fault Refusal) : Option ResponseWord :=
  match o with
  | .next s => s.responses.getLast?.map responseWord
  | .fault _ => none
  | .refused _ => none

/-- `STATUS` after an outcome. -/
def statusAfter (o : Host.Outcome State Fault Refusal) : Option Word :=
  match o with
  | .next s => some (statusWord s.status)
  | .fault _ => none
  | .refused _ => none

/-- The observation after an outcome. -/
def observed (o : Host.Outcome State Fault Refusal) : Option (List ResponseWord × Word) :=
  match o with
  | .next s => some (observation s)
  | .fault _ => none
  | .refused _ => none

/-- One step on the command word `w` presented next. -/
def stepOn (s : State) (w : Nat) : Host.Outcome State Fault Refusal := step (s.withFetchWord 136 w)

/-- The source's nine subkeys (S4). -/
def stdSchedule : Schedule :=
  #v[0x45fd137a4edf9ec4, 0x1dd43f03e6f7564c, 0xebe26756de9937c7, 0x961704e945bad4fb, 0x0b60dfe9eff473d4,
     0x76d3e7cf52c466cf, 0x75ec8cef767d3a0d, 0x82da3337b598fd6d, 0xfbd820da8dc8af8c]

/-- The block with the std key loaded, the subkeys as the source lists them. -/
def keyed : State := writeKeys 0x0123456789abcdef 0xfedcba9876543210 stdSchedule State.reset

/-- The block after a first fault `NO_KEY` (V-SY9). -/
def faulted : State := { State.reset with status := { kv := false, flt := true, fc := 4#4 } }

/-- A state with one pending command word. -/
def pendingWord (s : State) (cw : CommandWord) : State := { s with pending := [.command cw] }

/-! ## Well-formedness: the one check, with an ill-formed term on each side of its bound -/

theorem test_wellFormed_refuses_index_nine : wellFormed (.rdsk 9#4) = false := by decide
theorem test_wellFormed_refuses_index_fifteen : wellFormed (.rdsk 15#4) = false := by decide
theorem test_wellFormed_admits_index_eight : wellFormed (.rdsk 8#4) = true := by decide

/-! ## Decoding: one word per constructor, written out from R60 and R62: `op`, then 32 digits of `arg` -/

theorem test_decode_nop : decode 0x000000000000000000000000000000000#132 = .ok .nop := by decide
theorem test_decode_p : decode 0x1000000000000000000000000000000ec#132 = .ok (.p 0xec#8) := by decide
theorem test_decode_p8 : decode 0x2000000000000000026ec26ec26ec26ec#132 = .ok (.p8 0x26ec26ec26ec26ec#64) := by decide
theorem test_decode_t : decode 0x300000000000000008000000000000000#132 = .ok (.t 0x8000000000000000#64) := by decide
theorem test_decode_phi : decode 0x400000000000000000000000000000081#132 = .ok (.phi 0x81#8) := by decide
theorem test_decode_m : decode 0x5000000000000000000000000000089ab#132 = .ok (.m 0x89#8 0xab#8) := by decide
theorem test_decode_m8 : decode 0x600000000000000000123456789abcdef#132 = .ok (.m8 0x0123456789abcdef#64) := by decide
theorem test_decode_sxor :
    decode 0x7ffffffff0000000000000000ffffffff#132 = .ok (.sxor 0xffffffff00000000#64 0x00000000ffffffff#64) := by decide
theorem test_decode_keyld :
    decode 0x80123456789abcdeffedcba9876543210#132 = .ok (.keyld 0x0123456789abcdef#64 0xfedcba9876543210#64) := by decide
theorem test_decode_rdsk : decode 0x900000000000000000000000000000007#132 = .ok (.rdsk 7#4) := by decide
theorem test_decode_rnd : decode 0xa0000000000000000fedcba9876543210#132 = .ok (.rnd 0xfedcba9876543210#64) := by decide
theorem test_decode_enc : decode 0xb00000000000000000123456789abcdee#132 = .ok (.enc 0x0123456789abcdee#64) := by decide
theorem test_decode_dec : decode 0xc000000000000000054b3748d499f793e#132 = .ok (.dec 0x54b3748d499f793e#64) := by decide
theorem test_decode_rdst : decode 0xd00000000000000000000000000000000#132 = .ok .rdst := by decide
theorem test_decode_reserved_opcode : decode 0xf00000000000000000000000000001234#132 = .error .illegalOp := by decide
theorem test_decode_table_word : decodeTableWord 136 0x400000000000000000000000000000055 = some (.phi 0x55#8) := by decide

/-! ## Must-be-zero bits at the edges of each format: V-SY4, V-P11, V-M14, V-PW9, V-KS11, V-SY15 -/

theorem test_decode_reserved_z : decode 0x000000000000000000000000000000001#132 = .error .reservedOperand := by decide
theorem test_decode_reserved_b : decode 0x100000000000000000000000000000126#132 = .error .reservedOperand := by decide
theorem test_decode_reserved_h : decode 0x500000000000000000000000000010123#132 = .error .reservedOperand := by decide
theorem test_decode_reserved_w : decode 0x200000000000000010000000000000000#132 = .error .reservedOperand := by decide
theorem test_decode_reserved_i : decode 0x900000000000000000000000000000019#132 = .error .reservedOperand := by decide
theorem test_decode_bad_index : decode 0x900000000000000000000000000000009#132 = .error .badIndex := by decide

/-! ## Commands: at most two steps each -/

/-- V-SY1. -/
theorem test_nop : lastWord (stepOn State.reset 0x000000000000000000000000000000000) = some 0x00000000000000000 := by decide

/-- S1: `p(0x26) = 0xb8`. -/
theorem test_p_26 : lastWord (stepOn State.reset 0x100000000000000000000000000000026) = some 0x000000000000000b8 := by decide

/-- S1: `p(0xec) = 0x76`. -/
theorem test_p_ec : lastWord (stepOn State.reset 0x1000000000000000000000000000000ec) = some 0x00000000000000076 := by decide

/-- S2. -/
theorem test_p8_std : lastWord (stepOn State.reset 0x200000000000000000123456789abcdef) = some 0x00de7a3c127cdabc9 := by
  decide

/-- V-PW5: the words `00 01 ... 07` give `CI[0]`. -/
theorem test_p8_first_row :
    lastWord (stepOn State.reset 0x200000000000000000001020304050607) = some 0x0290d61409ceb9e8f := by decide

/-- S3. -/
theorem test_t_source : lastWord (stepOn State.reset 0x3000000000000000012bbca9a9134378e) = some 0x0792046de7107f34a := by
  decide

/-- V-T5: the least significant bit of byte 0 goes to the most significant bit of byte 7. -/
theorem test_t_corner : lastWord (stepOn State.reset 0x300000000000000000100000000000000) = some 0x00000000000000080 := by
  decide

/-- V-PHI9. -/
theorem test_phi_81 : lastWord (stepOn State.reset 0x400000000000000000000000000000081) = some 0x00000000000000083 := by
  decide

/-- V-PHI4. -/
theorem test_phi_40 : lastWord (stepOn State.reset 0x400000000000000000000000000000040) = some 0x000000000000000c0 := by
  decide

/-- V-M4: the halves differ. -/
theorem test_m_8000 : lastWord (stepOn State.reset 0x500000000000000000000000000008000) = some 0x0000000000000980d := by
  decide

/-- V-M9. -/
theorem test_m_4567 : lastWord (stepOn State.reset 0x500000000000000000000000000004567) = some 0x0000000000000f3cf := by
  decide

/-- V-MW4. -/
theorem test_m8_swapped :
    lastWord (stepOn State.reset 0x60000000000000000fedcba9876543210) = some 0x08a1861cf8a2661ee := by decide

/-- V-MW5: lanes do not mix. -/
theorem test_m8_one_lane :
    lastWord (stepOn State.reset 0x600000000000000000100000000000000) = some 0x04061292929292929 := by decide

/-- V-SX2. -/
theorem test_sxor : lastWord (stepOn State.reset 0x70123456789abcdef45fd137a4edf9ec4) = some 0x044de561dc774532b := by decide

/-- S4: the nine subkeys. -/
theorem test_keysched_std : keysched config 0x0123456789abcdef 0xfedcba9876543210 = stdSchedule := by decide +kernel

/-- V-SY12: a second `KEYLD` is locked out. -/
theorem test_keyld_locked :
    lastWord (stepOn keyed 0x800000000000000000000000000000000) = some 0x50000000000000000 ∧
      statusAfter (stepOn keyed 0x800000000000000000000000000000000) = some 0x17 := by decide

/-- V-KS7: the reserved subkey is readable. -/
theorem test_rdsk_8 : lastWord (stepOn keyed 0x900000000000000000000000000000008) = some 0x0fbd820da8dc8af8c := by decide

/-- V-KS10: `BAD_INDEX` wins over `NO_KEY`. -/
theorem test_rdsk_15_no_key : lastWord (stepOn State.reset 0x90000000000000000000000000000000f) = some 0x30000000000000000 := by
  decide

/-- V-RD1, straight after reset. -/
theorem test_rnd_zero : lastWord (stepOn State.reset 0xa00000000000000000000000000000000) = some 0x08521cb51db15b864 := by
  decide +kernel

/-- V-RD3. -/
theorem test_rnd_std : lastWord (stepOn State.reset 0xa00000000000000000123456789abcdef) = some 0x0e205de32638ea66b := by
  decide +kernel

/-- V-ENC1. -/
theorem test_enc_std : lastWord (stepOn keyed 0xb00000000000000000123456789abcdef) = some 0x054b3748d499f793e := by
  decide +kernel

/-- V-SY9: `NO_KEY` and its record. -/
theorem test_enc_no_key :
    lastWord (stepOn State.reset 0xb00000000000000000000000000000000) = some 0x40000000000000000 ∧
      statusAfter (stepOn State.reset 0xb00000000000000000000000000000000) = some 0x12 := by decide

/-- V-DEC1. -/
theorem test_dec_std : lastWord (stepOn keyed 0xc000000000000000054b3748d499f793e) = some 0x00123456789abcdef := by
  decide +kernel

/-- V-DEC5: a word that is no ciphertext. -/
theorem test_dec_other : lastWord (stepOn keyed 0xc00000000000000000123456789abcdef) = some 0x08e05f36154e2233a := by
  decide +kernel

/-- Program 4 step 4. -/
theorem test_rdst_faulted : lastWord (stepOn faulted 0xd00000000000000000000000000000000) = some 0x00000000000000012 := by
  decide

/-- V-SY3. -/
theorem test_rdst_keyed : lastWord (stepOn keyed 0xd00000000000000000000000000000000) = some 0x00000000000000001 := by decide

/-- V-SY8: only the first code is recorded. -/
theorem test_first_fault_is_kept :
    lastWord (stepOn faulted 0xe00000000000000000000000000000000) = some 0x10000000000000000 ∧
      statusAfter (stepOn faulted 0xe00000000000000000000000000000000) = some 0x12 := by decide

/-- R177 with V-SY9: one faulting command, its response word and the final `STATUS`. -/
theorem test_observation :
    observed (stepOn State.reset 0xb00000000000000000000000000000000) = some ([0x40000000000000000], 0x12) := by decide

/-- V-SY14: reset clears the record. -/
theorem test_reset_clears : statusAfter (step (present .reset faulted)) = some 0x00 := by decide

/-- Program 5: the three key bytes are padded on the right. -/
theorem test_key_padding :
    keyldb [0x01, 0x02, 0x03] = .ok (.keyld 0x0102030000000000 0x0000000000000000) := by decide

/-- S6: a key source of 17 bytes. -/
theorem test_key_too_long : keyldb (List.replicate 17 0x00) = .error .keyMaterialTooLong := by decide

/-- R49: nine bytes are not whole blocks. -/
theorem test_partial_block : blocksOfBytes [1, 2, 3, 4, 5, 6, 7, 8, 9] = .error .partialBlock := by decide

/-- Program 3 step 8: `KRND` of the plaintext and the first subkey is `m1` of V-ENC1. -/
theorem test_krnd : lastWord (krnd config 0x0123456789abcdef 0x45fd137a4edf9ec4 keyed) = some 0x0e8ac57c227a070cc := by
  decide +kernel

/-- A 64-bit result named as an 8-bit operand is not cut (log 12). -/
theorem test_wide_result_is_refused :
    assemble [("v", 0x100)] (.p (.res "v")) = .error (.resultTooWide "v") := by decide

/-- Tables of zeros, under which `p` by R80 leaves its byte as it is. -/
def zeroTables : Config where
  F := Vector.replicate 16 0#4
  G := Vector.replicate 16 0#4
  CI := Vector.replicate 9 0#64
  C := 0#64
  CC := 0#64

/-- R5, R80: the same word runs under other tables; `u` is the high nibble and `qr`, `ql` are the nibbles themselves. -/
theorem test_p_other_tables :
    lastWord (stepOf zeroTables (State.reset.withFetchWord 136 0x100000000000000000000000000000026)) =
      some 0x00000000000000026 := by decide

/-- R5, R105: with tables of zeros `sk[0] = k2 XOR t(k1)`; `t` of this key word is one of R91's small cases. -/
theorem test_keysched_other_tables : (keysched zeroTables 0x00000000000000ff 0#64)[0] = 0x0101010101010101 := by decide

/-- R174 Z1 (log 14): `ENCS` without a key writes no byte. -/
theorem test_output_after_fault :
    (match encs config [0#64] State.reset with
      | .next s => outputBytes 0 s
      | .fault _ => [1#8]
      | .refused _ => [1#8]) = [] := by decide

/-! ## Witnesses: the hypotheses of each statement are met together -/

theorem witness_DecodeOfEncode : wellFormed (.rdsk 8#4) = true ∧ wellFormed (.m 0xff#8 0x00#8) = true := by decide

/-- The lowest and the highest index of the one row with a hypothesis. -/
theorem witness_SampleWordsDecode : (0#4).toNat ≤ 8 ∧ (8#4).toNat ≤ 8 := by decide

theorem witness_EncodeOfDecode : decode 0x900000000000000000000000000000008#132 = .ok (.rdsk 8#4) := by decide

theorem witness_ReservedOpcodeFaults :
    (pendingWord keyed 0xe00000000000000000000000000000000).pending = [.command 0xe00000000000000000000000000000000] ∧
      (0xe00000000000000000000000000000000#132).extractLsb' 128 4 = 0xE#4 ∧
      (0xfffffffffffffffffffffffffffffffff#132).extractLsb' 128 4 = 0xF#4 := by decide

/-- One word per clause, each with the lowest or the highest must-be-zero bit of its format alone. -/
theorem witness_ReservedOperandFaults :
    (pendingWord keyed 0x000000000000000000000000000000001).pending = [.command 0x000000000000000000000000000000001] ∧
      (0xd80000000000000000000000000000000#132).extractLsb' 0 128 ≠ 0#128 ∧
      (0x100000000000000000000000000000100#132).extractLsb' 8 120 ≠ 0#120 ∧
      (0x500000000000000000000000000010000#132).extractLsb' 16 112 ≠ 0#112 ∧
      (0x680000000000000000000000000000000#132).extractLsb' 64 64 ≠ 0#64 ∧
      (0x900000000000000000000000000000010#132).extractLsb' 4 124 ≠ 0#124 := by decide

/-- The opcodes of the same words are those that the clauses name. -/
theorem witness_ReservedOperandFaults_opcodes :
    (0xd80000000000000000000000000000000#132).extractLsb' 128 4 ∈ [0x0#4, 0xD#4] ∧
      (0x100000000000000000000000000000100#132).extractLsb' 128 4 ∈ [0x1#4, 0x4#4] ∧
      (0x500000000000000000000000000010000#132).extractLsb' 128 4 = 0x5#4 ∧
      (0x680000000000000000000000000000000#132).extractLsb' 128 4 ∈ [0x2#4, 0x3#4, 0x6#4, 0xA#4, 0xB#4, 0xC#4] ∧
      (0x900000000000000000000000000000010#132).extractLsb' 128 4 = 0x9#4 := by decide

/-- The lowest and the highest index that is not legal. -/
theorem witness_BadIndexFaults :
    (pendingWord keyed 0x900000000000000000000000000000009).pending = [.command 0x900000000000000000000000000000009] ∧
      (0x900000000000000000000000000000009#132).extractLsb' 128 4 = 0x9#4 ∧
      (0x900000000000000000000000000000009#132).extractLsb' 4 124 = 0#124 ∧
      9 ≤ ((0x900000000000000000000000000000009#132).extractLsb' 0 4).toNat ∧
      (0x90000000000000000000000000000000f#132).extractLsb' 4 124 = 0#124 ∧
      9 ≤ ((0x90000000000000000000000000000000f#132).extractLsb' 0 4).toNat := by decide

theorem witness_StepRunsTheDecodedCommand :
    (pendingWord keyed 0x100000000000000000000000000000026).pending = [.command 0x100000000000000000000000000000026] ∧
      decode 0x100000000000000000000000000000026#132 = .ok (.p 0x26#8) := by decide

theorem witness_ResetMoveResetsTheBlock : ({ keyed with pending := [.reset] } : State).pending = .reset :: [] := rfl

theorem witness_StepWithoutAMoveHoldsTheState : keyed.pending = [] := rfl

/-- A command that faults and one that succeeds, both answered in one step. -/
theorem witness_FaultChangesOnlyTheFaultRecord :
    ∃ s' u', step (pendingWord keyed 0x900000000000000000000000000000009) = .next s' ∧
      step (pendingWord keyed 0x900000000000000000000000000000008) = .next u' := ⟨_, _, rfl, rfl⟩

/-- The clause about a pending word: one that is a command and one that is not. -/
theorem witness_EveryStepCompletesAndEveryWordIsAnsweredOnce :
    (pendingWord keyed 0#132).pending = .command 0#132 :: [] ∧
      (pendingWord keyed 0xe00000000000000000000000000000000).pending = .command 0xe00000000000000000000000000000000 :: [] :=
  ⟨rfl, rfl⟩

theorem witness_RdskFaultOrder : faulted.status.kv = false := rfl

/-- Clear, and set with the lowest and the highest code. -/
theorem witness_RdstResultsAreTheListedOnes :
    FaultRecordLegal keyed ∧
      FaultRecordLegal { keyed with status := { kv := true, flt := true, fc := 1#4 } } ∧
      FaultRecordLegal { keyed with status := { kv := true, flt := true, fc := 5#4 } } :=
  ⟨.inl (by decide), .inr (by decide), .inr (by decide)⟩

theorem witness_KeyldLoadsTheKey : State.reset.status.kv = false ∧ faulted.status.kv = false := by decide

theorem witness_KeyldIsLocked : keyed.status.kv = true := rfl

/-- The lowest and the highest legal index. -/
theorem witness_RdskAnswersTheSubkey :
    keyed.status.kv = true ∧ keyed.sk[(0#4).toNat] = some 0x45fd137a4edf9ec4 ∧
      keyed.sk[(8#4).toNat] = some 0xfbd820da8dc8af8c := by decide

theorem witness_holdsRoundKeys : HoldsRoundKeys keyed stdSchedule := by unfold HoldsRoundKeys; decide

/-- Also met where `SK[8]` alone is unwritten. -/
theorem witness_holdsRoundKeys_without_sk8 : HoldsRoundKeys { keyed with sk := keyed.sk.set 8 none } stdSchedule := by
  unfold HoldsRoundKeys; decide

theorem witness_EncAnswersTheCiphertext : keyed.status.kv = true ∧ HoldsRoundKeys keyed stdSchedule :=
  ⟨rfl, witness_holdsRoundKeys⟩

theorem witness_DecAnswersThePlaintext : keyed.status.kv = true ∧ HoldsRoundKeys keyed stdSchedule :=
  ⟨rfl, witness_holdsRoundKeys⟩

/-- One command per clause, `RDSK` at its highest legal index. -/
theorem witness_NoKeyFaults :
    State.reset.status.kv = false ∧ (∃ w, Instr.enc 0#64 = .enc w) ∧ (∃ w, Instr.dec 0#64 = .dec w) ∧
      ∃ idx : Nib, idx.toNat ≤ 8 ∧ Instr.rdsk 8#4 = .rdsk idx :=
  ⟨rfl, ⟨0#64, rfl⟩, ⟨0#64, rfl⟩, 8#4, by decide, rfl⟩

/-- The lookups of `p(0x26)` (S1). -/
theorem witness_PByThreeLookups :
    5#4 = 2#4 ^^^ romF config 6#4 ∧ 8#4 = 6#4 ^^^ romG config 5#4 ∧ 0xb#4 = 5#4 ^^^ romF config 8#4 := by decide

/-- The first two and the last two subkeys of one key; the key itself is the only one that meets the hypotheses. -/
theorem witness_TwoSubkeysDetermineTheKey :
    (keysched config 0#64 0#64)[0] = (keysched config 0#64 0#64)[0] ∧
      (keysched config 0#64 0#64)[8] = (keysched config 0#64 0#64)[8] := ⟨rfl, rfl⟩

/-- Two words and two schedules that differ, but not in lane 0, and not in `sk[0]` to `sk[7]`. -/
theorem witness_LanesAreIndependent :
    (0x0123456789abcdef#64 ≠ 0x0123456789abcdee#64 ∧ lane 0x0123456789abcdef#64 0 = lane 0x0123456789abcdee#64 0) ∧
      ∀ j : Fin 8, lane stdSchedule[j.val] 0 = lane (stdSchedule.set 8 0#64)[j.val] 0 := by decide

theorem keyConsistent_keyed : KeyConsistent config keyed := by
  refine .inr ⟨rfl, 0x0123456789abcdef, 0xfedcba9876543210, rfl, rfl, fun i => ?_⟩
  rw [test_keysched_std]
  exact writeKeys_sk _ _ stdSchedule State.reset i

theorem witness_StepKeepsTheKeysConsistent :
    KeyConsistent config keyed ∧ KeyConsistent config State.reset ∧ step keyed = .next keyed ∧
      stepOf config keyed = .next keyed :=
  ⟨keyConsistent_keyed, .inl ⟨rfl, rfl, rfl, reset_sk⟩, rfl, rfl⟩

theorem witness_StepKeepsTheFaultRecordLegal :
    FaultRecordLegal keyed ∧ ResponsesLegal keyed ∧ RecordedFaultWasAnswered keyed ∧
      ∃ s', step (pendingWord keyed 0xe00000000000000000000000000000000) = .next s' :=
  ⟨.inl (by decide), fun _ h => (by cases h), fun h => (by cases h), _, rfl⟩

theorem witness_OnlyKeyldWritesTheKeyRegisters :
    (∃ s', exec (.enc 0#64) State.reset = .next s') ∧ ∀ k1 k2, Instr.enc 0#64 ≠ .keyld k1 k2 :=
  ⟨⟨_, rfl⟩, fun _ _ h => by cases h⟩

theorem witness_LoadedKeyIsImmutable :
    keyed.status.kv = true ∧ (∀ rest, (pendingWord keyed 0x800000000000000000000000000000000).pending ≠ .reset :: rest) ∧
      (pendingWord keyed 0x800000000000000000000000000000000).pending = [.command (encode (.keyld 0#64 0#64))] ∧
      ∃ s', step (pendingWord keyed 0x800000000000000000000000000000000) = .next s' :=
  ⟨rfl, (fun _ h => by cases h), by decide, _, rfl⟩

theorem witness_OnlyResetClearsTheFaultRecord :
    faulted.status.flt = true ∧ (∀ rest, (pendingWord faulted 0xe00000000000000000000000000000000).pending ≠ .reset :: rest) ∧
      ∃ s', step (pendingWord faulted 0xe00000000000000000000000000000000) = .next s' :=
  ⟨rfl, (fun _ h => by cases h), _, rfl⟩

theorem witness_FaultRecordChangesNoCommand : Instr.enc 0#64 ≠ .rdst ∧ Instr.keyld 0#64 0#64 ≠ .rdst := by decide

theorem witness_UnreadRegistersAreNotObserved : Instr.rdsk 7#4 ≠ .rdsk 8#4 ∧ Instr.enc 0#64 ≠ .rdsk 8#4 := by decide

/-- Two states that differ in what the host does next and in what it has been told. -/
theorem witness_NoHiddenState :
    let s := pendingWord keyed 0#132
    let s' := { keyed with responses := [{ fc := 0#4, res := 1#64 }] }
    s ≠ s' ∧ s.k1 = s'.k1 ∧ s.k2 = s'.k2 ∧ s.sk = s'.sk ∧ s.status = s'.status := by decide

theorem witness_EncThenDecAnswersTheBlock : KeyLoaded config keyed := by
  rcases keyConsistent_keyed with h | h
  · cases h.1
  · exact h

theorem witness_GoodRunIsNoFaultRecorded :
    (GoodRun keyed ↔ keyed.status.flt = false) ∧
      HostMove.reset ∉ (pendingWord keyed 0xe00000000000000000000000000000000).pending ∧
      ∃ s', core.run 1 (pendingWord keyed 0xe00000000000000000000000000000000) = .next s' :=
  ⟨⟨fun _ => rfl, fun _ _ h => by cases h⟩, by decide, _, rfl⟩

/-- Both clauses at the bound: 16 bytes and 17 bytes. -/
theorem witness_KeyBytesArePadded :
    (List.replicate 16 0xff#8).length ≤ 16 ∧ 16 < (List.replicate 17 0xff#8).length := by decide

/-- Both clauses: an empty input, one block, and one byte more or less. -/
theorem witness_StreamIsCutIntoWholeBlocks :
    ([] : List Byte).length % 8 = 0 ∧ (List.replicate 8 0#8).length % 8 = 0 ∧
      (List.replicate 7 0#8).length % 8 ≠ 0 ∧ (List.replicate 9 0#8).length % 8 ≠ 0 := by decide

theorem witness_StreamsAnswerEachBlock : keyed.status.kv = true ∧ HoldsRoundKeys keyed stdSchedule :=
  ⟨rfl, witness_holdsRoundKeys⟩

/-- Each clause on `KV`, and the one on the round keys. -/
theorem witness_CommandsRunUnderAnyTables :
    State.reset.status.kv = false ∧ keyed.status.kv = true ∧ HoldsRoundKeys keyed stdSchedule ∧
      (pendingWord keyed 0x100000000000000000000000000000026).pending = [.command 0x100000000000000000000000000000026] ∧
      decode 0x100000000000000000000000000000026#132 = .ok (.p 0x26#8) ∧
      ∀ cw rest, keyed.pending ≠ .command cw :: rest :=
  ⟨rfl, rfl, witness_holdsRoundKeys, rfl, by decide, fun _ _ h => by cases h⟩

theorem witness_StreamsStopAtTheFirstFault : State.reset.status.kv = false := rfl

theorem witness_DecryptSessionRecoversTheInput :
    (List.replicate 3 0x01#8).length ≤ 16 ∧ (List.replicate 24 0x00#8).length % 8 = 0 := by decide

end Sys2Proof.Tests
end

section
/-!
PROOFS. The family 00_scope.md: the commands and the step of a block with any tables (R5, R29). First the facts about
results, key registers and steps that the statement needs, each said once for any tables; then the statement.
-/
namespace Sys2Proof.Machine

open Sys2Proof.Safety

/-! ## Where a result stands in `res`, and what `respond` leaves -/

theorem resByte_eq_append (b : Byte) : resByte b = 0#56 ++ b :=
  BitVec.setWidth_eq_append (by decide)

theorem resHalf_eq_append (h : Half) : resHalf h = 0#48 ++ h :=
  BitVec.setWidth_eq_append (by decide)

/-- `respond` changes the list of responses alone. -/
theorem respond_eq_next (v : Word) (s : State) :
    respond v s = .next { s with responses := s.responses ++ [{ fc := 0#4, res := v }] } := rfl

/-! ## The key registers -/

theorem writeKeys_sk_eq_map (k1 k2 : Word) (sk : Schedule) (s : State) :
    (writeKeys k1 k2 sk s).sk = sk.map some := by
  refine Vector.ext fun i hi => ?_
  rw [Vector.getElem_map]
  exact writeKeys_sk k1 k2 sk s ⟨i, hi⟩

theorem writeKeys_eq (k1 k2 : Word) (sk : Schedule) (s : State) :
    writeKeys k1 k2 sk s =
      { s with k1 := some k1, k2 := some k2, sk := sk.map some, status := { s.status with kv := true } } := by
  rw [← writeKeys_sk_eq_map k1 k2 sk s]
  rfl

theorem readRoundKeys_of_holdsRoundKeys {s : State} {sk : Schedule} (h : HoldsRoundKeys s sk) :
    readRoundKeys s = some (roundKeys sk) := by
  obtain ⟨h0, h1, h2, h3, h4, h5, h6, h7⟩ := h
  exact readRoundKeys_of_written (rk := roundKeys sk) h0 h1 h2 h3 h4 h5 h6 h7

/-! ## The commands that test `KV`, under any tables -/

/-- The commands of `exec` are those under the default tables. -/
theorem exec_eq_execOf (i : Instr) (s : State) : exec i s = execOf config i s := by
  cases i <;> rfl

theorem execOf_keyld_of_no_key (cfg : Config) (k1 k2 : Word) {s : State} (hkv : s.status.kv = false) :
    execOf cfg (.keyld k1 k2) s = respond 0#64 (writeKeys k1 k2 (keysched cfg k1 k2) s) := by
  simp [execOf, execKeyldOf, hkv]

theorem execOf_keyld_of_key (cfg : Config) (k1 k2 : Word) {s : State} (hkv : s.status.kv = true) :
    execOf cfg (.keyld k1 k2) s = raise .keyLocked s := by
  simp [execOf, execKeyldOf, hkv]

theorem execOf_enc_of_key (cfg : Config) (w : Word) {s : State} {sk : Schedule} (hkv : s.status.kv = true)
    (hsk : HoldsRoundKeys s sk) : execOf cfg (.enc w) s = respond (encryptBlock cfg w sk) s :=
  withKey_of_key (encryptWith cfg w) hkv (readRoundKeys_of_holdsRoundKeys hsk)

theorem execOf_dec_of_key (cfg : Config) (w : Word) {s : State} {sk : Schedule} (hkv : s.status.kv = true)
    (hsk : HoldsRoundKeys s sk) : execOf cfg (.dec w) s = respond (decryptBlock cfg w sk) s :=
  withKey_of_key (decryptWith cfg w) hkv (readRoundKeys_of_holdsRoundKeys hsk)

theorem execOf_enc_of_no_key (cfg : Config) (w : Word) {s : State} (hkv : s.status.kv = false) :
    execOf cfg (.enc w) s = raise .noKey s :=
  withKey_of_no_key (readRoundKeys s) (encryptWith cfg w) hkv

theorem execOf_dec_of_no_key (cfg : Config) (w : Word) {s : State} (hkv : s.status.kv = false) :
    execOf cfg (.dec w) s = raise .noKey s :=
  withKey_of_no_key (readRoundKeys s) (decryptWith cfg w) hkv

/-! ## The step, by the host's next move (R54, R71, R166, R170) -/

section
variable (run : Instr → State → Host.Outcome State Fault Refusal) {s : State} {rest : List HostMove}
  {cw : CommandWord}

theorem stepBy_of_idle (hp : s.pending = []) : stepBy run s = .next s := by
  simp [stepBy, nextEvent, hp]

theorem stepBy_of_reset (hp : s.pending = .reset :: rest) :
    stepBy run s = .next (resetBlock (takeMove rest s)) := by
  simp [stepBy, nextEvent, hp]

theorem stepBy_of_illFormed {c : FaultName} (hp : s.pending = .command cw :: rest) (hd : decode cw = .error c) :
    stepBy run s = raise c (takeMove rest s) := by
  simp [stepBy, nextEvent, hp, hd]

theorem stepBy_of_command {i : Instr} (hp : s.pending = .command cw :: rest) (hd : decode cw = .ok i) :
    stepBy run s = run i (takeMove rest s) := by
  simp [stepBy, nextEvent, hp, hd]

end

/-- Where the host's next move is no word that decodes, the step does not ask what the commands mean. -/
theorem stepBy_eq_of_no_command (run run' : Instr → State → Host.Outcome State Fault Refusal) {s : State}
    (h : ∀ cw rest, s.pending = .command cw :: rest → ∃ c, decode cw = .error c) :
    stepBy run s = stepBy run' s := by
  match hp : s.pending with
  | [] => rw [stepBy_of_idle run hp, stepBy_of_idle run' hp]
  | .reset :: rest => rw [stepBy_of_reset run hp, stepBy_of_reset run' hp]
  | .command cw :: rest =>
    obtain ⟨c, hd⟩ := h cw rest hp
    rw [stepBy_of_illFormed run hp hd, stepBy_of_illFormed run' hp hd]

/-! ## The statement -/

/-- Settles O60: clause by clause from the equation of each command under any tables, and from the step's dependence on the
commands only through a word that decodes. -/
theorem commandsRunUnderAnyTables : Obligations.CommandsRunUnderAnyTables := by
  intro cfg s
  refine ⟨fun x => ?p, fun xl xr => ?m, fun w => ⟨rfl, rfl, rfl⟩, fun k1 k2 hkv => ?keyld,
    fun w sk hkv hsk => ⟨execOf_enc_of_key cfg w hkv hsk, execOf_dec_of_key cfg w hkv hsk⟩,
    fun k1 k2 hkv => ?locked, fun w hkv => ⟨?enc, ?dec⟩,
    ⟨rfl, rfl, fun _ => rfl, fun _ => rfl, fun _ _ => rfl, fun _ => rfl⟩,
    fun cw rest i hp hd => stepBy_of_command (execOf cfg) hp hd,
    stepBy_eq_of_no_command (execOf cfg) exec⟩
  case p => rw [← resByte_eq_append, ← respond_eq_next]; rfl
  case m => rw [← resHalf_eq_append, ← respond_eq_next]; rfl
  case keyld => rw [execOf_keyld_of_no_key cfg k1 k2 hkv, writeKeys_eq, respond_eq_next]
  case locked => rw [exec_eq_execOf, execOf_keyld_of_key cfg k1 k2 hkv, execOf_keyld_of_key config k1 k2 hkv]
  case enc => rw [exec_eq_execOf, execOf_enc_of_no_key cfg w hkv, execOf_enc_of_no_key config w hkv]
  case dec => rw [exec_eq_execOf, execOf_dec_of_no_key cfg w hkv, execOf_dec_of_no_key config w hkv]

end Sys2Proof.Machine
end

section
/-!
PROOFS. The family 10_state.md: what the registers hold, who writes them and who reads them (R20 to R32). First the three
facts the statements rest on, each said once: what keeps an invariant through every step, which commands leave the key
registers alone, and that a command does the same in two states that agree on the registers it reads. Then the statements.
-/
namespace Sys2Proof.Machine

open Sys2Proof.Safety

/-! ## The whole next state of a fault, and a command word that loads a key -/

/-- A fault with the whole next state written out (R157). -/
theorem raise_eq_next (c : FaultName) {s : State} {b : Bool} (hkv : s.status.kv = b) :
    raise c s = .next { s with
      status := { kv := b, flt := true, fc := if s.status.flt then s.status.fc else faultCode c }
      responses := s.responses ++ [{ fc := faultCode c, res := 0#64 }] } := by
  subst hkv; rfl

theorem execOf_rdsk_of_no_key (cfg : Config) {idx : Nib} {s : State} (hidx : legalIndex idx = true)
    (hkv : s.status.kv = false) : execOf cfg (.rdsk idx) s = raise .noKey s := by
  rw [← withKey_of_no_key (readSubkey idx s) id hkv]
  exact if_pos hidx

/-- The word of a `KEYLD` decodes to it: format D has no must-be-zero bit and every operand is legal (R62). -/
theorem decode_encode_keyld (k1 k2 : Word) : decode (encode (.keyld k1 k2)) = .ok (.keyld k1 k2) := by
  obtain ⟨hop, harg, hclear⟩ := Laws.Encoding.keyld k1 k2
  have hrow : opcodeRow (opcode (.keyld k1 k2)) =
      some (.D, fun arg => .keyld (argWordHigh arg) (argWordLow arg)) := rfl
  have hclear : mbzClear .D (operandField (.keyld k1 k2)) = true := harg ▸ hclear
  simp only [decode, hop, harg, hrow, hclear, if_true]
  simp [operandField, argWordHigh_join, argWordLow_join, wellFormed]

/-! ## What keeps an invariant through every step -/

/-- `step` is the step under the default tables. -/
theorem step_eq_stepOf (s : State) : step s = stepOf config s := by
  have h : exec = execOf config := funext₂ exec_eq_execOf
  rw [step, stepOf, h]

/-- `I` is kept by each of the five things a step under the tables `cfg` is made of: taking the host's move, reset, an answer of
code 0, loading a key where none is loaded, and a fault. -/
structure KeptByEachOperation (cfg : Config) (I : State → Prop) : Prop where
  takeMove : ∀ rest s, I s → I (takeMove rest s)
  reset : ∀ s, I s → I (resetBlock s)
  respond : ∀ v s, I s → I (answer { fc := 0#4, res := v } s)
  load : ∀ k1 k2 s, s.status.kv = false → I s → I (writeKeys k1 k2 (keysched cfg k1 k2) s)
  fault : ∀ c s, I s → I (answer { fc := faultCode c, res := 0#64 } { s with status := recordFault c s.status })

namespace KeptByEachOperation

variable {cfg : Config} {I : State → Prop} {s s' : State}

theorem of_raise (hI : KeptByEachOperation cfg I) {c : FaultName} (h : I s) (hn : raise c s = .next s') : I s' := by
  cases hn
  exact hI.fault c s h

theorem of_execOf (hI : KeptByEachOperation cfg I) {i : Instr} (h : I s) (hn : execOf cfg i s = .next s') : I s' := by
  obtain ⟨v, he⟩ | ⟨k1, k2, -, hkv, he⟩ | ⟨c, he⟩ := execOf_cases cfg i s
  · cases he.symm.trans hn
    exact hI.respond v s h
  · cases he.symm.trans hn
    exact hI.respond 0#64 _ (hI.load k1 k2 s hkv h)
  · exact hI.of_raise h (he.symm.trans hn)

/-- An invariant that each operation keeps is kept by every step. -/
theorem of_stepOf (hI : KeptByEachOperation cfg I) (h : I s) (hn : stepOf cfg s = .next s') : I s' := by
  obtain ⟨-, hs⟩ | ⟨rest, -, hs⟩ | ⟨-, rest, c, -, -, hs⟩ | ⟨-, rest, i, -, -, hs⟩ := stepOf_cases cfg s
  · cases hs.symm.trans hn
    exact h
  · cases hs.symm.trans hn
    exact hI.reset _ (hI.takeMove rest s h)
  · exact hI.of_raise (hI.takeMove rest s h) (hs.symm.trans hn)
  · exact hI.of_execOf (hI.takeMove rest s h) (hs.symm.trans hn)

end KeptByEachOperation

/-! ## The two invariants, operation by operation -/

/-- Only reset and a `KEYLD` touch what `KeyConsistent` speaks of: the one unwrites every register, the other writes a master
key and its schedule. -/
theorem keyConsistent_kept (cfg : Config) : KeptByEachOperation cfg (KeyConsistent cfg) where
  takeMove _ _ h := h
  reset _ _ := .inl ⟨rfl, rfl, rfl, reset_sk⟩
  respond _ _ h := h
  load k1 k2 s _ _ := .inr ⟨rfl, k1, k2, rfl, rfl, writeKeys_sk k1 k2 (keysched cfg k1 k2) s⟩
  fault _ _ h := h

/-- The invariant of R23, R61 and R157: the fault record and the responses are legal and agree. -/
def FaultsAccountedFor (s : State) : Prop :=
  FaultRecordLegal s ∧ ResponsesLegal s ∧ RecordedFaultWasAnswered s

theorem responseLegal_respond (v : Word) : ResponseLegal { fc := 0#4, res := v } :=
  ⟨Nat.zero_le 5, fun h => absurd rfl h⟩

theorem responseLegal_raise (c : FaultName) : ResponseLegal { fc := faultCode c, res := 0#64 } :=
  ⟨(faultCode_range c).2, fun _ => rfl⟩

theorem responsesLegal_answer {r : Response} {s : State} (h : ResponsesLegal s) (hr : ResponseLegal r) :
    ResponsesLegal (answer r s) := by
  intro q hq
  obtain hq | hq := List.mem_append.mp hq
  · exact h q hq
  · exact List.mem_singleton.mp hq ▸ hr

/-- After a fault the record holds the first fault's code: the one recorded before, or that of this fault. -/
theorem faultRecordLegal_recordFault {s s' : State} {c : FaultName} (h : FaultRecordLegal s)
    (hs' : s'.status = recordFault c s.status) : FaultRecordLegal s' := by
  refine .inr ?_
  rw [hs', recordFault_flt, recordFault_fc]
  obtain ⟨hflt, -⟩ | ⟨hflt, hfc⟩ := h
  · simpa [hflt] using faultCode_range c
  · simpa [hflt] using hfc

theorem faultsAccountedFor_answer {s : State} (v : Word) (h : FaultsAccountedFor s) :
    FaultsAccountedFor (answer { fc := 0#4, res := v } s) := by
  obtain ⟨hrec, hresp, hans⟩ := h
  refine ⟨hrec, responsesLegal_answer hresp (responseLegal_respond v), fun hflt => ?_⟩
  obtain ⟨r, hr, hfc⟩ := hans hflt
  exact ⟨r, List.mem_append_left _ hr, hfc⟩

theorem faultsAccountedFor_fault {s : State} (c : FaultName) (h : FaultsAccountedFor s) :
    FaultsAccountedFor
      (answer { fc := faultCode c, res := 0#64 } { s with status := recordFault c s.status }) := by
  obtain ⟨hrec, hresp, -⟩ := h
  have hresp' : ResponsesLegal { s with status := recordFault c s.status } := hresp
  exact ⟨faultRecordLegal_recordFault hrec rfl, responsesLegal_answer hresp' (responseLegal_raise c),
    fun _ => ⟨_, List.mem_append_right _ (List.mem_singleton_self _), faultCode_ne_zero c⟩⟩

theorem faultsAccountedFor_kept (cfg : Config) : KeptByEachOperation cfg FaultsAccountedFor where
  takeMove _ _ h := h
  reset := fun _ ⟨_, hresp, _⟩ => ⟨.inl ⟨rfl, rfl⟩, hresp, fun hflt => nomatch hflt⟩
  respond v _ := faultsAccountedFor_answer v
  load _ _ _ _ h := h
  fault c _ := faultsAccountedFor_fault c

/-! ## Which commands leave the key registers alone -/

/-- The two states hold the same in `K1`, `K2`, every `SK[i]` and `KV`. -/
structure SameKeys (s s' : State) : Prop where
  k1 : s'.k1 = s.k1
  k2 : s'.k2 = s.k2
  sk : s'.sk = s.sk
  kv : s'.status.kv = s.status.kv

/-- A fault never writes a key register (R157). -/
theorem raise_sameKeys {c : FaultName} {s s' : State} (h : raise c s = .next s') : SameKeys s s' := by
  cases h
  exact ⟨rfl, rfl, rfl, rfl⟩

/-- A command leaves the key registers alone, unless it is a `KEYLD` and no key is loaded. -/
theorem exec_sameKeys_or_keyld {i : Instr} {s s' : State} (h : exec i s = .next s') :
    SameKeys s s' ∨ ∃ k1 k2, i = .keyld k1 k2 ∧ s.status.kv = false := by
  obtain ⟨v, he⟩ | ⟨k1, k2, hi, hkv, -⟩ | ⟨c, he⟩ := exec_cases i s
  · cases he.symm.trans h
    exact .inl ⟨rfl, rfl, rfl, rfl⟩
  · exact .inr ⟨k1, k2, hi, hkv⟩
  · exact .inl (raise_sameKeys (he.symm.trans h))

/-- With a key loaded, every step but a reset leaves the key registers alone (R32). -/
theorem step_sameKeys_of_key {s s' : State} (hkv : s.status.kv = true)
    (hreset : ∀ rest, s.pending ≠ .reset :: rest) (h : step s = .next s') : SameKeys s s' := by
  obtain ⟨-, hs⟩ | ⟨rest, hp, -⟩ | ⟨-, rest, c, -, -, hs⟩ | ⟨-, rest, i, -, -, hs⟩ := step_cases s
  · cases hs.symm.trans h
    exact ⟨rfl, rfl, rfl, rfl⟩
  · exact absurd hp (hreset rest)
  · obtain ⟨h1, h2, hsk, hv⟩ := raise_sameKeys (hs.symm.trans h)
    exact ⟨h1, h2, hsk, hv⟩
  · obtain ⟨h1, h2, hsk, hv⟩ | ⟨-, -, -, hno⟩ := exec_sameKeys_or_keyld (hs.symm.trans h)
    · exact ⟨h1, h2, hsk, hv⟩
    · exact absurd hkv (by simpa using hno)

/-- A command takes no move of the host and only adds to the responses (R24). -/
theorem exec_pending_responses {i : Instr} {s s' : State} (h : exec i s = .next s') :
    s'.pending = s.pending ∧ s.responses <+: s'.responses := by
  obtain ⟨v, he⟩ | ⟨k1, k2, -, -, he⟩ | ⟨c, he⟩ := exec_cases i s <;> cases he.symm.trans h <;>
    exact ⟨rfl, List.prefix_append _ _⟩

/-! ## A command does the same in two states that agree on the registers it reads -/

/-- The two states agree on the registers that the command reads (R26): `RDST` reads `STATUS`; `KEYLD` reads `KV`; `RDSK` reads
`KV` and one subkey (R109); `ENC` and `DEC` read `KV` and `SK[0]` to `SK[7]` (R124); the others read none. -/
def ReadsAgree (i : Instr) (s s' : State) : Prop :=
  match i with
  | .rdst => s.status = s'.status
  | .keyld _ _ => s.status.kv = s'.status.kv
  | .rdsk idx => s.status.kv = s'.status.kv ∧ readSubkey idx s = readSubkey idx s'
  | .enc _ => s.status.kv = s'.status.kv ∧ readRoundKeys s = readRoundKeys s'
  | .dec _ => s.status.kv = s'.status.kv ∧ readRoundKeys s = readRoundKeys s'
  | _ => True

/-- The outcomes `o` from `s` and `o'` from `s'` come from one and the same thing done in both states: the same answer, the same
key loaded, or the same fault. -/
inductive ActsAlike (s s' : State) : Host.Outcome State Fault Refusal → Host.Outcome State Fault Refusal → Prop
  | answered (v : Word) : ActsAlike s s' (respond v s) (respond v s')
  | loaded (k1 k2 : Word) (sk : Schedule) :
      ActsAlike s s' (respond 0#64 (writeKeys k1 k2 sk s)) (respond 0#64 (writeKeys k1 k2 sk s'))
  | faulted (c : FaultName) : ActsAlike s s' (raise c s) (raise c s')

theorem withKey_actsAlike {α : Type} {read read' : Option α} (result : α → Word) {s s' : State}
    (hkv : s.status.kv = s'.status.kv) (hread : read = read') :
    ActsAlike s s' (withKey read result s) (withKey read' result s') := by
  subst hread
  simp only [withKey, ← hkv]
  cases s.status.kv with
  | false => exact .faulted .noKey
  | true =>
    cases read with
    | none => exact .faulted .noKey
    | some v => exact .answered (result v)

theorem execOf_actsAlike (cfg : Config) {i : Instr} {s s' : State} (h : ReadsAgree i s s') :
    ActsAlike s s' (execOf cfg i s) (execOf cfg i s') := by
  cases i with
  | rdst =>
    have hst : s.status = s'.status := h
    simp only [execOf, execRdst, hst]
    exact .answered _
  | keyld k1 k2 =>
    have hkv' : s'.status.kv = s.status.kv := h.symm
    cases hkv : s.status.kv with
    | false =>
      rw [execOf_keyld_of_no_key cfg k1 k2 hkv, execOf_keyld_of_no_key cfg k1 k2 (hkv'.trans hkv)]
      exact .loaded k1 k2 (keysched cfg k1 k2)
    | true =>
      rw [execOf_keyld_of_key cfg k1 k2 hkv, execOf_keyld_of_key cfg k1 k2 (hkv'.trans hkv)]
      exact .faulted .keyLocked
  | rdsk idx =>
    simp only [execOf, execRdsk]
    split
    · exact withKey_actsAlike id h.1 h.2
    · exact .faulted .badIndex
  | enc w => exact withKey_actsAlike (encryptWith cfg w) h.1 h.2
  | dec w => exact withKey_actsAlike (decryptWith cfg w) h.1 h.2
  | _ => exact .answered _

theorem exec_actsAlike {i : Instr} {s s' : State} (h : ReadsAgree i s s') :
    ActsAlike s s' (exec i s) (exec i s') := by
  rw [exec_eq_execOf, exec_eq_execOf]
  exact execOf_actsAlike config h

/-- Where one thing is done in both states, both are answered alike, and a register that was the same in both is so still. -/
theorem ActsAlike.same_response {s s' : State} {o o' : Host.Outcome State Fault Refusal} (h : ActsAlike s s' o o') :
    ∃ r u u', o = .next u ∧ o' = .next u' ∧ u.responses = s.responses ++ [r] ∧ u'.responses = s'.responses ++ [r] ∧
      (s.k1 = s'.k1 → u.k1 = u'.k1) ∧ (s.k2 = s'.k2 → u.k2 = u'.k2) ∧ (s.sk = s'.sk → u.sk = u'.sk) ∧
      (s.status.kv = s'.status.kv → u.status.kv = u'.status.kv) ∧ (s.status = s'.status → u.status = u'.status) := by
  cases h with
  | answered v => exact ⟨_, _, _, rfl, rfl, rfl, rfl, id, id, id, id, id⟩
  | loaded k1 k2 sk =>
    exact ⟨_, _, _, rfl, rfl, rfl, rfl, fun _ => rfl, fun _ => rfl, fun _ => rfl, fun _ => rfl, congrArg setKeyValid⟩
  | faulted c => exact ⟨_, _, _, rfl, rfl, rfl, rfl, id, id, id, id, congrArg (recordFault c)⟩

/-- No command reads `K1`, `K2` or what lies outside the registers (R21, R28). -/
theorem readsAgree_of_sk_status_eq (i : Instr) {s s' : State} (hsk : s.sk = s'.sk) (hst : s.status = s'.status) :
    ReadsAgree i s s' := by
  have hkv : s.status.kv = s'.status.kv := congrArg Status.kv hst
  cases i with
  | rdst => exact hst
  | keyld k1 k2 => exact hkv
  | rdsk idx => exact ⟨hkv, by simp only [readSubkey, hsk]⟩
  | enc w => exact ⟨hkv, by simp only [readRoundKeys, hsk]⟩
  | dec w => exact ⟨hkv, by simp only [readRoundKeys, hsk]⟩
  | _ => trivial

/-- No command but `RDST` reads the fault record (R26). -/
theorem readsAgree_of_ne_rdst {i : Instr} (hi : i ≠ .rdst) (s : State) (flt : Bool) (fc : BitVec 4) :
    ReadsAgree i s { s with status := { s.status with flt := flt, fc := fc } } := by
  cases i with
  | rdst => exact absurd rfl hi
  | keyld k1 k2 => exact rfl
  | rdsk idx => exact ⟨rfl, rfl⟩
  | enc w => exact ⟨rfl, rfl⟩
  | dec w => exact ⟨rfl, rfl⟩
  | _ => trivial

theorem readSubkey_set_sk8 {idx : Nib} (hidx : idx ≠ 8#4) (s : State) (k1 k2 sk8 : Option Word) :
    readSubkey idx s = readSubkey idx { s with k1 := k1, k2 := k2, sk := s.sk.set 8 sk8 } := by
  have hne : 8 ≠ idx.toNat := fun h => hidx (BitVec.eq_of_toNat_eq h.symm)
  unfold readSubkey
  split
  · exact (Vector.getElem_set_ne (x := sk8) (by decide) _ hne).symm
  · rfl

/-- The block path does not read `SK[8]` (R124). -/
theorem readRoundKeys_set_sk8 (s : State) (k1 k2 sk8 : Option Word) :
    readRoundKeys s = readRoundKeys { s with k1 := k1, k2 := k2, sk := s.sk.set 8 sk8 } := by
  simp [readRoundKeys]

/-- No command but `RDSK #8` reads `SK[8]` (R110, R124). -/
theorem readsAgree_of_ne_rdsk8 {i : Instr} (hi : i ≠ .rdsk 8#4) (s : State) (k1 k2 sk8 : Option Word) :
    ReadsAgree i s { s with k1 := k1, k2 := k2, sk := s.sk.set 8 sk8 } := by
  cases i with
  | rdst => exact rfl
  | keyld _ _ => exact rfl
  | rdsk idx => exact ⟨rfl, readSubkey_set_sk8 (fun h => hi (h ▸ rfl)) s k1 k2 sk8⟩
  | enc w => exact ⟨rfl, readRoundKeys_set_sk8 s k1 k2 sk8⟩
  | dec w => exact ⟨rfl, readRoundKeys_set_sk8 s k1 k2 sk8⟩
  | _ => trivial

/-! ## The statements -/

/-- Settles O42: `KeyConsistent` is kept by each operation a step is made of, for any tables, and `step` is the step under the
default ones. -/
theorem stepKeepsTheKeysConsistent : Obligations.StepKeepsTheKeysConsistent := by
  refine ⟨fun s s' hs hn => ?_, fun cfg s s' hs hn => (keyConsistent_kept cfg).of_stepOf hs hn⟩
  rw [step_eq_stepOf] at hn
  exact (keyConsistent_kept config).of_stepOf hs hn

/-- Settles O43: the three parts are one invariant, kept by each operation a step is made of. -/
theorem stepKeepsTheFaultRecordLegal : Obligations.StepKeepsTheFaultRecordLegal := by
  intro s s' hrec hresp hans hn
  rw [step_eq_stepOf] at hn
  exact (faultsAccountedFor_kept config).of_stepOf ⟨hrec, hresp, hans⟩ hn

/-- Settles O44: only a `KEYLD` without a key loaded writes the key registers. -/
theorem onlyKeyldWritesTheKeyRegisters : Obligations.OnlyKeyldWritesTheKeyRegisters := by
  intro i s s' h
  obtain ⟨hpending, hresponses⟩ := exec_pending_responses h
  refine ⟨hpending, hresponses, fun hi => ?_⟩
  obtain ⟨h1, h2, hsk, hkv⟩ | ⟨k1, k2, hk, -⟩ := exec_sameKeys_or_keyld h
  · exact ⟨h1, h2, hsk, hkv⟩
  · exact absurd hk (hi k1 k2)

/-- Settles O45: with a key loaded no step but a reset writes the key registers, and the word of a `KEYLD` decodes to one, which
is locked out. -/
theorem loadedKeyIsImmutable : Obligations.LoadedKeyIsImmutable := by
  intro s s' hkv hreset h
  obtain ⟨h1, h2, hsk, hkv'⟩ := step_sameKeys_of_key hkv hreset h
  refine ⟨h1, h2, hsk, hkv'.trans hkv, fun k1 k2 rest hp => ?_⟩
  have hstep : step s = raise .keyLocked (takeMove rest s) := by
    rw [step, stepBy_of_command exec hp (decode_encode_keyld k1 k2), exec_eq_execOf]
    exact execOf_keyld_of_key config k1 k2 hkv
  cases hstep.symm.trans h
  rfl

/-- Settles O47: the fault record is read by `RDST` alone, so every other command acts alike with and without it. -/
theorem faultRecordChangesNoCommand : Obligations.FaultRecordChangesNoCommand := by
  intro i s flt fc hi
  obtain ⟨r, u, u', hu, hu', hr, hr', h1, h2, hsk, hkv, -⟩ :=
    (exec_actsAlike (readsAgree_of_ne_rdst hi s flt fc)).same_response
  exact ⟨r, u, u', hu, hu', hr, hr', h1 rfl, h2 rfl, hsk rfl, hkv rfl⟩

/-- Settles O48: no command reads `K1` or `K2`, and none but `RDSK #8` reads `SK[8]`. -/
theorem unreadRegistersAreNotObserved : Obligations.UnreadRegistersAreNotObserved := by
  constructor
  · intro i s k1 k2
    have hreads : ReadsAgree i s { s with k1 := k1, k2 := k2 } := readsAgree_of_sk_status_eq i rfl rfl
    obtain ⟨r, u, u', hu, hu', hr, hr', -, -, -, -, hst⟩ := (exec_actsAlike hreads).same_response
    exact ⟨r, u, u', hu, hu', hr, hr', hst rfl⟩
  · intro i s k1 k2 sk8 hi
    obtain ⟨r, u, u', hu, hu', hr, hr', -, -, -, -, hst⟩ :=
      (exec_actsAlike (readsAgree_of_ne_rdsk8 hi s k1 k2 sk8)).same_response
    exact ⟨r, u, u', hu, hu', hr, hr', hst rfl⟩

/-- Settles O49: all that a command reads is registers, and where these agree before it they agree after it. -/
theorem noHiddenState : Obligations.NoHiddenState := by
  intro i s s' hk1 hk2 hsk hst
  obtain ⟨r, u, u', hu, hu', hr, hr', h1, h2, h3, -, h5⟩ :=
    (exec_actsAlike (readsAgree_of_sk_status_eq i hsk hst)).same_response
  exact ⟨r, u, u', hu, hu', hr, hr', h1 hk1, h2 hk2, h3 hsk, h5 hst⟩

/-- Settles O24: a `KEYLD` with a key loaded is the fault `KEY_LOCKED`. -/
theorem keyldIsLocked : Obligations.KeyldIsLocked := by
  intro s k1 k2 hkv
  rw [exec_eq_execOf, execOf_keyld_of_key config k1 k2 hkv]
  exact raise_eq_next .keyLocked hkv

/-- Settles O28: without a key each of the three commands is the fault `NO_KEY`. -/
theorem noKeyFaults : Obligations.NoKeyFaults := by
  intro s i hkv hi
  have hexec : exec i s = raise .noKey s := by
    rw [exec_eq_execOf]
    obtain ⟨w, rfl⟩ | ⟨w, rfl⟩ | ⟨idx, hidx, rfl⟩ := hi
    · exact execOf_enc_of_no_key config w hkv
    · exact execOf_dec_of_no_key config w hkv
    · exact execOf_rdsk_of_no_key config (decide_eq_true hidx) hkv
  rw [hexec]
  exact raise_eq_next .noKey hkv

/-- Settles O41: every register is unwritten and no response has been given, so each invariant holds by its empty case. -/
theorem resetState : Obligations.ResetState :=
  ⟨rfl, rfl, reset_sk, by decide, fun _ => .inl ⟨rfl, rfl, rfl, reset_sk⟩, .inl ⟨rfl, rfl⟩,
    fun _ h => absurd h List.not_mem_nil, fun h => nomatch h⟩

end Sys2Proof.Machine
end

section
/-!
PROOFS. The family 20_memory.md: the host's boundary and the step on a word that decodes (R46 to R49, R54). First what key
bytes become, then what a stream of bytes is cut into, each said once; then the statements.
-/
namespace Sys2Proof.Machine

/-! ## Key bytes (R46, R47) -/

theorem byte_word_of_bytes (f : Nat → Byte) (j : Fin 8) :
    byte (word (f 0) (f 1) (f 2) (f 3) (f 4) (f 5) (f 6) (f 7)) j = f j.val := by
  rw [byte_word]
  fin_cases j <;> rfl

/-- A byte past the end of the source is the zero byte, however many of these are written after it. -/
theorem keyByte_eq_getD_append_zeros (kb : List Byte) (n j : Nat) :
    keyByte kb j = (kb ++ List.replicate n 0#8).getD j 0#8 := by
  rw [keyByte]
  obtain hj | hj := Nat.lt_or_ge j kb.length
  · rw [List.getD_append _ _ _ _ hj]
  · rw [List.getD_append_right _ _ _ _ hj, List.getD_eq_default _ _ hj]
    exact (List.getElem?_getD_replicate_default_eq _ n _).symm

/-- At most 16 key bytes are the `KEYLD` whose words hold them, byte by byte. -/
theorem keyldb_of_length_le {kb : List Byte} (h : kb.length ≤ 16) :
    ∃ k1 k2, keyldb kb = .ok (.keyld k1 k2) ∧
      ∀ j : Fin 8, byte k1 j = keyByte kb j.val ∧ byte k2 j = keyByte kb (8 + j.val) := by
  refine ⟨_, _, ?_, fun j =>
    ⟨byte_word_of_bytes (keyByte kb) j, byte_word_of_bytes (fun i => keyByte kb (8 + i)) j⟩⟩
  rw [keyldb, keyWords, if_neg (Nat.not_lt.mpr h)]

theorem keyldb_of_length_gt {kb : List Byte} (h : 16 < kb.length) :
    keyldb kb = .error .keyMaterialTooLong := by
  rw [keyldb, keyWords, if_pos h]

/-! ## The stream of blocks (R48, R49) -/

@[simp] theorem bytesOfBlocks_nil : bytesOfBlocks [] = [] := rfl

@[simp] theorem bytesOfBlocks_cons (w : Word) (ws : List Word) :
    bytesOfBlocks (w :: ws) = bytesOfWord w ++ bytesOfBlocks ws := rfl

@[simp] theorem bytesOfWord_length (w : Word) : (bytesOfWord w).length = 8 := rfl

theorem bytesOfWord_word (b0 b1 b2 b3 b4 b5 b6 b7 : Byte) :
    bytesOfWord (word b0 b1 b2 b3 b4 b5 b6 b7) = [b0, b1, b2, b3, b4, b5, b6, b7] := by
  simp only [bytesOfWord, byte_word]
  rfl

theorem bytesOfWord_getD (w : Word) (j : Fin 8) : (bytesOfWord w).getD j.val 0#8 = byte w j := by
  fin_cases j <;> rfl

theorem bytesOfBlocks_length (ws : List Word) : (bytesOfBlocks ws).length = 8 * ws.length := by
  induction ws with
  | nil => rfl
  | cons w ws ih =>
    rw [bytesOfBlocks_cons, List.length_append, bytesOfWord_length, ih, List.length_cons]
    omega

/-- Each block's bytes stand at the block's own position. -/
theorem bytesOfBlocks_getD (ws : List Word) (n : Nat) (hn : n < ws.length) (j : Fin 8) :
    (bytesOfBlocks ws).getD (8 * n + j.val) 0#8 = byte ws[n] j := by
  induction ws generalizing n with
  | nil => exact absurd hn (Nat.not_lt_zero n)
  | cons w ws ih =>
    rw [bytesOfBlocks_cons]
    cases n with
    | zero =>
      rw [Nat.mul_zero, Nat.zero_add, List.getD_append _ _ _ _ j.isLt]
      exact bytesOfWord_getD w j
    | succ n =>
      have hpast : (bytesOfWord w).length ≤ 8 * (n + 1) + j.val := by rw [bytesOfWord_length]; omega
      have hpos : 8 * (n + 1) + j.val - (bytesOfWord w).length = 8 * n + j.val := by
        rw [bytesOfWord_length]; omega
      rw [List.getD_append_right _ _ _ _ hpast, hpos]
      exact ih n (Nat.lt_of_succ_lt_succ hn)

/-- Either the input is the bytes of the blocks it is cut into, or it is refused and its length is no multiple of 8. -/
theorem blocksOfBytes_cases : ∀ input : List Byte,
    (∃ ws, blocksOfBytes input = .ok ws ∧ bytesOfBlocks ws = input) ∨
      (blocksOfBytes input = .error .partialBlock ∧ input.length % 8 ≠ 0)
  | [] => .inl ⟨[], rfl, rfl⟩
  | b0 :: b1 :: b2 :: b3 :: b4 :: b5 :: b6 :: b7 :: rest => by
    obtain ⟨ws, hok, hbytes⟩ | ⟨herr, hlen⟩ := blocksOfBytes_cases rest
    · refine .inl ⟨word b0 b1 b2 b3 b4 b5 b6 b7 :: ws, by simp only [blocksOfBytes, hok], ?_⟩
      rw [bytesOfBlocks_cons, bytesOfWord_word, hbytes]
      rfl
    · refine .inr ⟨by simp only [blocksOfBytes, herr], ?_⟩
      simp only [List.length_cons]
      omega
  | [_] | [_, _] | [_, _, _] | [_, _, _, _] | [_, _, _, _, _] | [_, _, _, _, _, _] | [_, _, _, _, _, _, _] =>
    .inr ⟨rfl, by simp⟩

theorem blocksOfBytes_of_whole {input : List Byte} (h : input.length % 8 = 0) :
    ∃ ws, blocksOfBytes input = .ok ws ∧ bytesOfBlocks ws = input :=
  (blocksOfBytes_cases input).resolve_right fun ⟨_, hlen⟩ => hlen h

theorem blocksOfBytes_of_partial {input : List Byte} (h : input.length % 8 ≠ 0) :
    blocksOfBytes input = .error .partialBlock := by
  obtain ⟨ws, -, rfl⟩ | ⟨herr, -⟩ := blocksOfBytes_cases input
  · rw [bytesOfBlocks_length, Nat.mul_mod_right] at h
    exact absurd rfl h
  · exact herr

/-! ## The statements -/

/-- Settles O52: the two words hold the key bytes in order, and a key byte past the source's end is zero. -/
theorem keyBytesArePadded : Obligations.KeyBytesArePadded := by
  refine fun kb => ⟨fun h => ?_, keyldb_of_length_gt⟩
  obtain ⟨k1, k2, hok, hbytes⟩ := keyldb_of_length_le h
  refine ⟨k1, k2, hok, fun j => ?_⟩
  rw [← keyByte_eq_getD_append_zeros, ← keyByte_eq_getD_append_zeros]
  exact hbytes j

/-- Settles O53: an input of whole blocks is the bytes of its blocks, so its length and each of its bytes are theirs. -/
theorem streamIsCutIntoWholeBlocks : Obligations.StreamIsCutIntoWholeBlocks := by
  refine fun input => ⟨fun h => ?_, blocksOfBytes_of_partial⟩
  obtain ⟨ws, hok, rfl⟩ := blocksOfBytes_of_whole h
  exact ⟨ws, hok, (bytesOfBlocks_length ws).symm, rfl, fun n hn j => (bytesOfBlocks_getD ws n hn j).symm⟩

/-- Settles O9: the step on a command word is the decoded command's, under the meanings of `exec`. -/
theorem stepRunsTheDecodedCommand : Obligations.StepRunsTheDecodedCommand :=
  fun _ _ _ _ hp hd => stepBy_of_command exec hp hd

end Sys2Proof.Machine
end

section
/-!
PROOFS. The family 30_encoding.md: the decoder and the encoder, the three faults that depend on the word alone, one answer per
word, and the host's pseudo-instructions (R60 to R72). First what the decoder does with a row of the opcode map and that it
undoes the encoder, both ways; then the step on an ill-formed word; then a command as the host issues it; then the statements.
-/
namespace Sys2Proof.Machine

open Sys2Proof.Safety

/-! ## The encoder, read by the opcode map (R60, R62, R64) -/

/-- What Laws/PerInstr.lean says of each constructor, for every command. -/
theorem encoding_statement (i : Instr) : Laws.Encoding.Statement i :=
  match i with
  | .nop => Laws.Encoding.nop
  | .p x => Laws.Encoding.p x
  | .p8 w => Laws.Encoding.p8 w
  | .t w => Laws.Encoding.t w
  | .phi x => Laws.Encoding.phi x
  | .m xl xr => Laws.Encoding.m xl xr
  | .m8 w => Laws.Encoding.m8 w
  | .sxor a b => Laws.Encoding.sxor a b
  | .keyld k1 k2 => Laws.Encoding.keyld k1 k2
  | .rdsk idx => Laws.Encoding.rdsk idx
  | .rnd w => Laws.Encoding.rnd w
  | .enc w => Laws.Encoding.enc w
  | .dec w => Laws.Encoding.dec w
  | .rdst => Laws.Encoding.rdst

/-- The row of a command's opcode has the command's format, and gives the command back from its operand field. -/
theorem opcodeRow_opcode (i : Instr) :
    ∃ build, opcodeRow (opcode i) = some (formatOf i, build) ∧ build (operandField i) = i := by
  cases i with
  | nop | rdst => exact ⟨_, rfl, rfl⟩
  | p x | phi x => exact ⟨_, rfl, by simp only [operandField, argByteLow_setWidth]⟩
  | m xl xr => exact ⟨_, rfl, by simp only [operandField, argByteHigh_join, argByteLow_join]⟩
  | p8 w | t w | m8 w | rnd w | enc w | dec w => exact ⟨_, rfl, by simp only [operandField, argWordLow_setWidth]⟩
  | sxor a b | keyld a b => exact ⟨_, rfl, by simp only [operandField, argWordHigh_join, argWordLow_join]⟩
  | rdsk idx => exact ⟨_, rfl, by simp only [operandField, argIndex_setWidth]⟩

/-- A row gives commands of its own opcode. -/
theorem opcode_of_opcodeRow {op : BitVec 4} {fmt : Format} {build : Arg → Instr}
    (hrow : opcodeRow op = some (fmt, build)) (arg : Arg) : opcode (build arg) = op := by
  unfold opcodeRow at hrow
  split at hrow <;> cases hrow <;> exact BitVec.eq_of_toNat_eq (Eq.symm ‹_›)

/-- A row ignores no bit of an operand field whose must-be-zero bits are zero: the command's own operand field is that field. -/
theorem operandField_of_opcodeRow {op : BitVec 4} {fmt : Format} {build : Arg → Instr} {arg : Arg}
    (hrow : opcodeRow op = some (fmt, build)) (hclear : mbzClear fmt arg = true) : operandField (build arg) = arg := by
  have hzero : arg >>> operandWidth fmt = 0#128 := of_decide_eq_true hclear
  have hlow := setWidth_of_clear arg hzero
  unfold opcodeRow at hrow
  split at hrow <;> cases hrow
  -- Row `k` of the map is case `k + 1`: format Z, then H, then D; in the other rows the operand is one field.
  case h_1 | h_14 => exact hzero.symm
  case h_6 => exact (congrArg (BitVec.setWidth 128) (join_argBytes arg)).trans hlow
  case h_8 | h_9 => exact join_argWords arg
  all_goals exact hlow

/-! ## What the decoder answers (R71 steps 1 to 3) -/

section
variable {cw : CommandWord} {fmt : Format} {build : Arg → Instr}

theorem decode_of_no_row (hrow : opcodeRow (opField cw) = none) : decode cw = .error .illegalOp := by
  simp only [decode, hrow]

theorem decode_of_mbz_set (hrow : opcodeRow (opField cw) = some (fmt, build))
    (hmbz : mbzClear fmt (argField cw) = false) : decode cw = .error .reservedOperand := by
  simp [decode, hrow, hmbz]

theorem decode_of_not_wellFormed (hrow : opcodeRow (opField cw) = some (fmt, build))
    (hmbz : mbzClear fmt (argField cw) = true) (hwf : wellFormed (build (argField cw)) = false) :
    decode cw = .error .badIndex := by
  simp [decode, hrow, hmbz, hwf]

theorem decode_of_wellFormed (hrow : opcodeRow (opField cw) = some (fmt, build))
    (hmbz : mbzClear fmt (argField cw) = true) (hwf : wellFormed (build (argField cw)) = true) :
    decode cw = .ok (build (argField cw)) := by
  simp [decode, hrow, hmbz, hwf]

end

/-- Everything the decoder can answer: one of the three faults of the word alone, or the well-formed command of the word's row,
its must-be-zero bits being zero. -/
theorem decode_cases (cw : CommandWord) :
    (∃ c, (c = .illegalOp ∨ c = .reservedOperand ∨ c = .badIndex) ∧ decode cw = .error c) ∨
      ∃ fmt build, opcodeRow (opField cw) = some (fmt, build) ∧ mbzClear fmt (argField cw) = true ∧
        wellFormed (build (argField cw)) = true ∧ decode cw = .ok (build (argField cw)) := by
  match hrow : opcodeRow (opField cw) with
  | none => exact .inl ⟨_, .inl rfl, decode_of_no_row hrow⟩
  | some (fmt, build) =>
    cases hmbz : mbzClear fmt (argField cw) with
    | false => exact .inl ⟨_, .inr (.inl rfl), decode_of_mbz_set hrow hmbz⟩
    | true =>
      cases hwf : wellFormed (build (argField cw)) with
      | false => exact .inl ⟨_, .inr (.inr rfl), decode_of_not_wellFormed hrow hmbz hwf⟩
      | true => exact .inr ⟨fmt, build, rfl, hmbz, hwf, decode_of_wellFormed hrow hmbz hwf⟩

/-- The decoder undoes the encoder on every legal command. -/
theorem decode_encode {i : Instr} (hwf : wellFormed i = true) : decode (encode i) = .ok i := by
  obtain ⟨hop, harg, hmbz⟩ := encoding_statement i
  obtain ⟨build, hrow, hbuild⟩ := opcodeRow_opcode i
  have hi : build (argField (encode i)) = i := (congrArg build harg).trans hbuild
  rw [decode_of_wellFormed (hop ▸ hrow) hmbz (hi.symm ▸ hwf), hi]

/-- The encoder undoes the decoder on every word that decodes: opcode and operand field are those of the word. -/
theorem encode_of_decode {cw : CommandWord} {i : Instr} (hd : decode cw = .ok i) :
    wellFormed i = true ∧ encode i = cw := by
  obtain ⟨c, -, herr⟩ | ⟨fmt, build, hrow, hmbz, hwf, hok⟩ := decode_cases cw
  · cases herr.symm.trans hd
  · cases hok.symm.trans hd
    refine ⟨hwf, ?_⟩
    rw [encode, opcode_of_opcodeRow hrow, operandField_of_opcodeRow hrow hmbz, join_fields]

/-- A word written as the opcode of a legal command beside its operand field decodes to that command. -/
theorem decode_fields {i : Instr} {arg : Arg} (harg : operandField i = arg) (hwf : wellFormed i = true := by rfl) :
    decode (opcode i ++ arg) = .ok i := by
  subst harg
  exact decode_encode hwf

/-! ## The step on an ill-formed word (R65, R66, R72) -/

/-- A word that does not decode changes the fault record and answers the fault's code, and that is all. -/
theorem step_of_decode_error {s : State} {cw : CommandWord} {rest : List HostMove} {c : FaultName}
    (hp : s.pending = .command cw :: rest) (hd : decode cw = .error c) :
    step s = .next { s with
      pending := rest
      status := { kv := s.status.kv, flt := true, fc := if s.status.flt then s.status.fc else faultCode c }
      responses := s.responses ++ [{ fc := faultCode c, res := 0#64 }] } := by
  rw [step, stepBy_of_illFormed exec hp hd, raise_eq_next c rfl]
  rfl

/-- Where the opcode of a word has the format `fmt` and the bits above the operand of `fmt` are not all zero, the word faults. -/
theorem decode_of_reserved_bits {cw : CommandWord} {fmt : Format}
    (hfmt : (opcodeRow (cw.extractLsb' 128 4)).map Prod.fst = some fmt)
    (hbits : cw.extractLsb' (operandWidth fmt) (128 - operandWidth fmt) ≠ 0) :
    decode cw = .error .reservedOperand := by
  obtain ⟨⟨_, build⟩, hrow, rfl⟩ := Option.map_eq_some_iff.mp hfmt
  refine decode_of_mbz_set hrow (Bool.eq_false_iff.mpr fun hclear => ?_)
  exact hbits ((mbzClear_iff _ cw).mp hclear)

theorem argIndex_argField (cw : CommandWord) : argIndex (argField cw) = cw.extractLsb' 0 4 :=
  BitVec.extractLsb'_extractLsb'_of_le (by decide)

/-! ## A command word is answered once (R61, R150) -/

theorem responseWord_code (r : Response) : (responseWord r).extractLsb' 64 4 = r.fc :=
  BitVec.extractLsb'_append_eq_left

theorem responseWord_result (r : Response) : (responseWord r).extractLsb' 0 64 = r.res :=
  BitVec.extractLsb'_append_eq_right

/-- The outcome `o` from `s` is a next state that has added one legal response to those of `s` and takes no move. -/
def AnswersOnce (s : State) (o : Host.Outcome State Fault Refusal) : Prop :=
  ∃ s' r, o = .next s' ∧ s'.pending = s.pending ∧ s'.responses = s.responses ++ [r] ∧ ResponseLegal r

theorem answersOnce_raise (c : FaultName) (s : State) : AnswersOnce s (raise c s) :=
  ⟨_, _, rfl, rfl, rfl, responseLegal_raise c⟩

theorem answersOnce_exec (i : Instr) (s : State) : AnswersOnce s (exec i s) := by
  obtain ⟨v, he⟩ | ⟨k1, k2, -, -, he⟩ | ⟨c, he⟩ := exec_cases i s <;> rw [he]
  · exact ⟨_, _, rfl, rfl, rfl, responseLegal_respond v⟩
  · exact ⟨_, _, rfl, rfl, rfl, responseLegal_respond 0#64⟩
  · exact answersOnce_raise c s

/-- The step on a command word, legal or not, takes the word and answers once. -/
theorem answersOnce_step {s : State} {cw : CommandWord} {rest : List HostMove}
    (hp : s.pending = .command cw :: rest) : AnswersOnce (takeMove rest s) (step s) := by
  cases hd : decode cw with
  | error c =>
    rw [step, stepBy_of_illFormed exec hp hd]
    exact answersOnce_raise c _
  | ok i =>
    rw [step, stepBy_of_command exec hp hd]
    exact answersOnce_exec i _

/-- Every step completes (R175): it idles, resets, or meets a command word. -/
theorem step_completes (s : State) : ∃ s', step s = .next s' := by
  match hp : s.pending with
  | [] => exact ⟨_, stepBy_of_idle exec hp⟩
  | .reset :: rest => exact ⟨_, stepBy_of_reset exec hp⟩
  | .command cw :: rest =>
    obtain ⟨s', -, hs, -⟩ := answersOnce_step hp
    exact ⟨s', hs⟩

/-! ## A command as the host issues it (R54, R69, R70) -/

/-- A legal command issued by the host is its meaning: the word decodes to it and the host's own list is as before. -/
theorem issue_of_wellFormed (cfg : Config) {i : Instr} (hwf : wellFormed i = true) (s : State) :
    issue cfg i s = execOf cfg i s :=
  stepBy_of_command (execOf cfg) (present_pending _ s) (decode_encode hwf)

@[simp] theorem lastResult_answer (r : Response) (s : State) : lastResult (answer r s) = r.res := by
  simp [lastResult]

@[simp] theorem lastFaulted_answer (r : Response) (s : State) : lastFaulted (answer r s) = (r.fc != 0#4) := by
  simp [lastFaulted]

/-- A stream whose first command faults is that fault: nothing after it is issued. -/
theorem blockStream_of_fault {cfg : Config} {command : Word → Instr} {w : Word} {s : State} {c : FaultName}
    (h : issue cfg (command w) s = raise c s) (ws : List Word) :
    blockStream cfg command (w :: ws) s = raise c s := by
  simp [blockStream, h, raise_eq, goOn, faultCode_ne_zero]

/-- A fault's response is not data: after it there is nothing to write (R174 Z1, log 14). -/
theorem outputBytes_of_fault {c : FaultName} {s s' : State}
    (h : s'.responses = s.responses ++ [{ fc := faultCode c, res := 0#64 }]) :
    outputBytes s.responses.length s' = [] := by
  simp [outputBytes, h, faultCode_ne_zero, bytesOfBlocks]

/-- A stream of commands that need a key, without one: the first is `NO_KEY` and no byte is written. -/
theorem blockStream_of_no_key {cfg : Config} {command : Word → Instr} {w : Word} {s : State}
    (h : issue cfg (command w) s = raise .noKey s) (ws : List Word) :
    ∃ s', blockStream cfg command (w :: ws) s = .next s' ∧
      s'.responses = s.responses ++ [{ fc := 4#4, res := 0#64 }] ∧ outputBytes s.responses.length s' = [] :=
  ⟨_, blockStream_of_fault h ws, rfl, outputBytes_of_fault (c := .noKey) rfl⟩

theorem issue_sxor (cfg : Config) (a b : Word) (s : State) :
    issue cfg (.sxor a b) s = .next (answer { fc := 0#4, res := a ^^^ b } s) := issue_of_wellFormed cfg rfl s

theorem krnd_eq (cfg : Config) (x k : Word) (s : State) :
    krnd cfg x k s = respond (kround cfg x k) (answer { fc := 0#4, res := x ^^^ k } s) := by
  rw [krnd, issue_sxor, goOn, lastResult_answer]
  exact issue_of_wellFormed cfg rfl _

/-- A word that has just been named is the value of the operand that names it, at its full width. -/
theorem operandValue_bound (name : String) (v : Word) (env : Named) :
    operandValue 64 ((name, v) :: env) (.res name) = .ok v := by
  simp [operandValue, lookupName, v.isLt]

/-- A line whose command is assembled and answered is followed by the rest, under the names after it. -/
theorem runLines_command {cfg : Config} {env : Named} {c : Mnemonic} {i : Instr} {s s' : State} {name : Option String}
    {rest : List Line} (hc : assemble env c = .ok i) (hi : issue cfg i s = .next s') :
    runLines cfg (.command name c :: rest) env s = runLines cfg rest (bindName name s' env) s' := by
  simp only [runLines, hc, hi]

/-! ## The statements -/

/-- Settles O1: the opcode of the word finds the command's row, and the row reads the operands back. -/
theorem decodeOfEncode : Obligations.DecodeOfEncode := fun _ hwf => decode_encode hwf

/-- Settles O2: the row that decoded the word keeps its opcode and, its must-be-zero bits being zero, all of its operand
field. -/
theorem encodeOfDecode : Obligations.EncodeOfDecode := fun _ _ hd => encode_of_decode hd

/-- Settles O3: a word of a legal command decodes to it, so it is the word of no other, and a word that faults is the word of
none. -/
theorem everyWordDecodesOrFaults : Obligations.EveryWordDecodesOrFaults := by
  intro cw
  obtain ⟨c, hc, herr⟩ | ⟨fmt, build, -, -, -, hok⟩ := decode_cases cw
  · refine .inr ⟨c, hc, herr, fun j hwf hj => ?_⟩
    subst hj
    cases herr.symm.trans (decode_encode hwf)
  · obtain ⟨hwf, henc⟩ := encode_of_decode hok
    refine .inl ⟨_, hwf, henc, hok, fun j hwfj hj => ?_⟩
    subst hj
    exact Except.ok.inj ((decode_encode hwfj).symm.trans hok)

/-- Settles O6: the opcodes of each clause are those of its format, so a bit set above the operand is a must-be-zero bit. -/
theorem reservedOperandFaults : Obligations.ReservedOperandFaults := by
  intro s cw rest hp h
  have hZ : ∀ op ∈ [0x0#4, 0xD#4], (opcodeRow op).map Prod.fst = some .Z := by decide
  have hB : ∀ op ∈ [0x1#4, 0x4#4], (opcodeRow op).map Prod.fst = some .B := by decide
  have hW : ∀ op ∈ [0x2#4, 0x3#4, 0x6#4, 0xA#4, 0xB#4, 0xC#4], (opcodeRow op).map Prod.fst = some .W := by decide
  have hd : decode cw = .error .reservedOperand := by
    obtain ⟨hop, hbits⟩ | ⟨hop, hbits⟩ | ⟨hop, hbits⟩ | ⟨hop, hbits⟩ | ⟨hop, hbits⟩ := h
    · exact decode_of_reserved_bits (hZ _ hop) hbits
    · exact decode_of_reserved_bits (hB _ hop) hbits
    · exact decode_of_reserved_bits (fmt := .H) (by rw [hop]; rfl) hbits
    · exact decode_of_reserved_bits (hW _ hop) hbits
    · exact decode_of_reserved_bits (fmt := .I) (by rw [hop]; rfl) hbits
  exact step_of_decode_error hp hd

/-- Settles O7: the word is in the row of `RDSK` and passes its must-be-zero check, and its index is not legal. -/
theorem badIndexFaults : Obligations.BadIndexFaults := by
  intro s cw rest hp hop hbits hidx
  have hrow : opcodeRow (opField cw) = some (.I, fun arg => .rdsk (argIndex arg)) := by
    rw [opField, hop]
    rfl
  have hwf : wellFormed (.rdsk (argIndex (argField cw))) = false := by
    rw [argIndex_argField]
    exact decide_eq_false (by omega)
  exact step_of_decode_error hp (decode_of_not_wellFormed hrow ((mbzClear_iff .I cw).mpr hbits) hwf)

/-- Settles O12: every step completes, and one on a command word is a single answer, by a fault or by `exec`. -/
theorem everyStepCompletesAndEveryWordIsAnsweredOnce : Obligations.EveryStepCompletesAndEveryWordIsAnsweredOnce := by
  intro s
  obtain ⟨s', hs⟩ := step_completes s
  refine ⟨s', hs, fun cw rest hp => ?_⟩
  obtain ⟨u, r, hu, hpending, hresponses, hr⟩ := answersOnce_step hp
  cases hs.symm.trans hu
  exact ⟨hpending, r, hresponses, hr, responseWord_code r, responseWord_result r⟩

/-- Settles O4: each row is the opcode of a legal command beside its operand field, zeros above; the words written out are
evaluated. -/
theorem sampleWordsDecode : Obligations.SampleWordsDecode := by
  have byteOperand (x : Byte) : x.setWidth 128 = 0#120 ++ x := BitVec.setWidth_eq_append (by decide)
  have wordOperand (w : Word) : w.setWidth 128 = 0#64 ++ w := BitVec.setWidth_eq_append (by decide)
  refine ⟨decode_fields (i := .nop) rfl, fun x => decode_fields (i := .p x) (byteOperand x),
    fun w => decode_fields (i := .p8 w) (wordOperand w), fun w => decode_fields (i := .t w) (wordOperand w),
    fun x => decode_fields (i := .phi x) (byteOperand x),
    fun xl xr => decode_fields (i := .m xl xr) (BitVec.setWidth_eq_append (by decide)),
    fun w => decode_fields (i := .m8 w) (wordOperand w), fun a b => decode_fields (i := .sxor a b) rfl,
    fun k1 k2 => decode_fields (i := .keyld k1 k2) rfl,
    fun idx hidx => decode_fields (i := .rdsk idx) (BitVec.setWidth_eq_append (by decide)) (decide_eq_true hidx),
    fun w => decode_fields (i := .rnd w) (wordOperand w), fun w => decode_fields (i := .enc w) (wordOperand w),
    fun w => decode_fields (i := .dec w) (wordOperand w), decode_fields (i := .rdst) rfl, ?_⟩
  decide

/-- Settles O5: the two reserved opcodes have no row. -/
theorem reservedOpcodeFaults : Obligations.ReservedOpcodeFaults := by
  intro s cw rest hp hop
  have hrow : opcodeRow (opField cw) = none := by
    rw [opField]
    obtain hop | hop := hop <;> rw [hop] <;> rfl
  exact step_of_decode_error hp (decode_of_no_row hrow)

/-- Settles O8: any operand field is that of the command with its two halves. -/
theorem twoWordFormatsHaveNoReservedBits : Obligations.TwoWordFormatsHaveNoReservedBits := fun arg =>
  ⟨decode_fields (i := .sxor (argWordHigh arg) (argWordLow arg)) (join_argWords arg),
    decode_fields (i := .keyld (argWordHigh arg) (argWordLow arg)) (join_argWords arg)⟩

/-- Settles O55: the first command of either stream is the fault `NO_KEY`. -/
theorem streamsStopAtTheFirstFault : Obligations.StreamsStopAtTheFirstFault := by
  intro cfg w ws s hkv
  have henc : issue cfg (.enc w) s = raise .noKey s :=
    (issue_of_wellFormed cfg rfl s).trans (execOf_enc_of_no_key cfg w hkv)
  have hdec : issue cfg (.dec w) s = raise .noKey s :=
    (issue_of_wellFormed cfg rfl s).trans (execOf_dec_of_no_key cfg w hkv)
  exact ⟨blockStream_of_no_key henc ws, blockStream_of_no_key hdec ws⟩

/-- Settles O56: the second command takes the XOR that the first answered. -/
theorem krndIsARoundWithASubkey : Obligations.KrndIsARoundWithASubkey := by
  intro cfg s x k
  rw [krnd_eq, respond_eq_next, answer_responses, List.append_assoc]
  rfl

/-- Settles O57: the name in the second line is that of the first line's result, which is what `KRND` takes. -/
theorem krndLinesAreKrnd : Obligations.KrndLinesAreKrnd := by
  intro cfg s x k env
  have hname : operandValue 64 (bindName (some "v") (answer { fc := 0#4, res := x ^^^ k } s) env) (.res "v") =
      .ok (x ^^^ k) := by
    rw [bindName, lastResult_answer]
    exact operandValue_bound "v" (x ^^^ k) env
  have hassemble : assemble (bindName (some "v") (answer { fc := 0#4, res := x ^^^ k } s) env) (.rnd (.res "v")) =
      .ok (.rnd (x ^^^ k)) := by
    rw [assemble, oneOperand, hname]
  rw [krndLines, runLines_command rfl (issue_sxor cfg x k s), runLines_command hassemble (issue_of_wellFormed cfg rfl _),
    krnd_eq]
  rfl

end Sys2Proof.Machine
end

section
/-!
PROOFS. The family 40_nibble_substitution_p_p8.md: the functions `p` and `p8` for any tables, and the commands `P` and `P8`
(R80 to R84, R131). First `p` by its lookups, then that the same lookups read backwards undo it, then `p8` byte by byte; then
the statements.
-/
namespace Sys2Proof.Machine

/-! ## One byte (R80, R81) -/

theorem eq_xor_of_eq_xor {n : Nat} {x y z : BitVec n} (h : z = x ^^^ y) : x = z ^^^ y := by
  rw [h, BitVec.xor_assoc, BitVec.xor_self, BitVec.xor_zero]

theorem p_join_of_lookups (cfg : Config) {pl pr u qr ql : Nib} (hu : u = pl ^^^ romF cfg pr)
    (hqr : qr = pr ^^^ romG cfg u) (hql : ql = u ^^^ romF cfg qr) : p cfg (pl ++ pr) = ql ++ qr := by
  subst hu hqr hql
  rw [p, hi_join, lo_join]

/-- The lookups of the result are those of the operand in the opposite order: each XOR takes back what it added (R81 (a)). -/
theorem p_involutive (cfg : Config) : Function.Involutive (p cfg) := by
  intro b
  let u := hi b ^^^ romF cfg (lo b)
  let qr := lo b ^^^ romG cfg u
  let ql := u ^^^ romF cfg qr
  have hu : u = ql ^^^ romF cfg qr := eq_xor_of_eq_xor rfl
  have hlo : lo b = qr ^^^ romG cfg u := eq_xor_of_eq_xor rfl
  have hhi : hi b = u ^^^ romF cfg (lo b) := eq_xor_of_eq_xor rfl
  calc p cfg (p cfg b)
      = p cfg (ql ++ qr) := rfl
    _ = hi b ++ lo b := p_join_of_lookups cfg hu hlo hhi
    _ = b := join_nibbles b

/-! ## Eight bytes (R82) -/

theorem byte_p8 (cfg : Config) (w : Word) (j : Fin 8) : byte (p8 cfg w) j = p cfg (byte w j) := by
  rw [p8, byte_word]
  fin_cases j <;> rfl

theorem p8_involutive (cfg : Config) : Function.Involutive (p8 cfg) := fun w =>
  word_ext_bytes fun j => by rw [byte_p8, byte_p8, p_involutive cfg]

/-! ## The statements -/

/-- Settles O30: `p` and `p8` are involutions, and their inverses are by definition the functions themselves. -/
theorem pAndP8AreInvolutions : Obligations.PAndP8AreInvolutions := fun cfg =>
  ⟨fun b => ⟨p_involutive cfg b, p_involutive cfg b, p_involutive cfg b⟩,
    fun w => ⟨p8_involutive cfg w, p8_involutive cfg w, p8_involutive cfg w⟩⟩

/-- Settles O18: both commands are one `respond`, of `p` of the byte with zeros above and of `p8` of the word. -/
theorem pAndP8AnswerInEveryState : Obligations.PAndP8AnswerInEveryState := by
  refine fun s => ⟨fun x => ?_, fun w => ⟨p8 config w, respond_eq_next (p8 config w) s, byte_p8 config w⟩⟩
  rw [← resByte_eq_append]
  exact respond_eq_next (resByte (p config x)) s

/-- Settles O29: the nibbles of the operand are `pl` and `pr`, and the lookups are those of `p`. -/
theorem pByThreeLookups : Obligations.PByThreeLookups := fun cfg _ _ _ _ _ hu hqr hql =>
  p_join_of_lookups cfg hu hqr hql

end Sys2Proof.Machine
end

section
/-!
PROOFS. The family 41_bit_transpose_t.md: the function `t` and the command `T` (R90 to R92, R132). First the bits that
appending to an accumulator leaves, then the bits of `t` by bytes and by positions in the word; the laws of `t` compare
positions; then the statements.
-/
namespace Sys2Proof.Machine

/-! ## Appending bits to a byte (R90) -/

/-- One step of R90's accumulator: the bits move up by one place and `b` becomes bit 0. -/
def appendBit (b : Bool) (acc : Byte) : Byte := (acc <<< 1) ||| (BitVec.ofBool b).setWidth 8

@[simp] theorem appendBit_getLsbD_zero (b : Bool) (acc : Byte) : (appendBit b acc).getLsbD 0 = b := by
  simp [appendBit]

theorem appendBit_getLsbD_succ (b : Bool) (acc : Byte) {k : Nat} (hk : k + 1 < 8) :
    (appendBit b acc).getLsbD (k + 1) = acc.getLsbD k := by
  simp [appendBit, hk, BitVec.getLsbD_eq_getElem (Nat.lt_of_succ_lt hk)]

/-- The bit appended last, which `foldr` takes from the head of the list, is bit 0. -/
theorem foldr_appendBit_getLsbD (bit : Fin 8 → Bool) (acc : Byte) (js : List (Fin 8)) (k : Nat) (hlen : k < js.length)
    (hk : k < 8) : (js.foldr (fun j => appendBit (bit j)) acc).getLsbD k = bit js[k] := by
  induction js generalizing k with
  | nil => exact absurd hlen (Nat.not_lt_zero k)
  | cons j js ih =>
    cases k with
    | zero => exact appendBit_getLsbD_zero _ _
    | succ k => exact (appendBit_getLsbD_succ _ _ hk).trans (ih k (Nat.lt_of_succ_lt_succ hlen) (Nat.lt_of_succ_lt hk))

/-! ## The bits of `t` (R90, R91) -/

theorem tByte_eq_foldr (w : Word) (i : Fin 8) :
    tByte w i = [7, 6, 5, 4, 3, 2, 1, 0].foldr (fun j => appendBit ((byte w j).getLsbD (7 - i.val))) 0#8 := rfl

theorem tByte_getLsbD (w : Word) (i j : Fin 8) : (tByte w i).getLsbD (7 - j.val) = (byte w j).getLsbD (7 - i.val) := by
  have hj : 7 - j.val < 8 := by omega
  rw [tByte_eq_foldr, foldr_appendBit_getLsbD (fun j => (byte w j).getLsbD (7 - i.val)) _ _ _ hj hj]
  fin_cases j <;> rfl

theorem byte_t (w : Word) (i : Fin 8) : byte (t w) i = tByte w i := by
  rw [t, byte_word]
  fin_cases i <;> rfl

theorem byte_t_getLsbD (w : Word) (i j : Fin 8) :
    (byte (t w) i).getLsbD (7 - j.val) = (byte w j).getLsbD (7 - i.val) := by
  rw [byte_t, tByte_getLsbD]

/-- Position `8r + c` of a word lies in byte `7 - r`, counted from the most significant one (R8). -/
theorem getLsbD_eq_byte_getLsbD (w : Word) (r c : Fin 8) :
    w.getLsbD (8 * r.val + c.val) = (byte w r.rev).getLsbD (7 - c.rev.val) := by
  rw [byte_getLsbD _ _ _ (by omega)]
  congr 1
  simp only [Fin.val_rev]
  omega

theorem t_getLsbD (w : Word) (r c : Fin 8) : (t w).getLsbD (8 * r.val + c.val) = w.getLsbD (8 * c.val + r.val) := by
  rw [getLsbD_eq_byte_getLsbD, byte_t_getLsbD, ← getLsbD_eq_byte_getLsbD]

/-! ## The laws of `t` (R91, R132) -/

theorem word_ext_positions {a b : Word}
    (h : ∀ r c : Fin 8, a.getLsbD (8 * r.val + c.val) = b.getLsbD (8 * r.val + c.val)) : a = b := by
  refine BitVec.eq_of_getLsbD_eq fun n hn => ?_
  have hrc := h ⟨n / 8, by omega⟩ ⟨n % 8, by omega⟩
  rwa [Nat.div_add_mod] at hrc

theorem t_involutive : Function.Involutive t := fun w =>
  word_ext_positions fun r c => by rw [t_getLsbD, t_getLsbD]

theorem t_xor (a b : Word) : t (a ^^^ b) = t a ^^^ t b :=
  word_ext_positions fun r c => by simp only [t_getLsbD, BitVec.getLsbD_xor]

theorem t_zero : t 0#64 = 0#64 :=
  word_ext_positions fun r c => by simp only [t_getLsbD, BitVec.getLsbD_zero]

theorem diagonal_getLsbD : ∀ r c : Fin 8, (0x8040201008040201#64).getLsbD (8 * r.val + c.val) = decide (r = c) := by
  decide

/-- A position on the diagonal is its own mirror image, and the mask clears every other one. -/
theorem t_and_diagonal (w : Word) : t w &&& 0x8040201008040201#64 = w &&& 0x8040201008040201#64 := by
  refine word_ext_positions fun r c => ?_
  rw [BitVec.getLsbD_and, BitVec.getLsbD_and, t_getLsbD, diagonal_getLsbD]
  by_cases h : r = c
  · rw [h]
  · rw [decide_eq_false h, Bool.and_false, Bool.and_false]

/-! ## The statements -/

/-- Settles O19: the command is one `respond` of `t` of its operand. -/
theorem tAnswersTheTranspose : Obligations.TAnswersTheTranspose := fun s w =>
  ⟨t w, respond_eq_next (t w) s, byte_t_getLsbD w⟩

/-- Settles O31: `t` mirrors the positions of a word, and `t_inv` is by definition `t`. -/
theorem tIsAnInvolutionAndLinear : Obligations.TIsAnInvolutionAndLinear :=
  ⟨t_getLsbD, fun w => ⟨t_involutive w, t_involutive w, t_involutive w⟩, t_xor, t_zero, t_and_diagonal⟩

end Sys2Proof.Machine
end

section
/-!
PROOFS. The family 42_mix_phi_m_m8.md: the functions `phi`, `m`, `m8` and `slice_xor`, their inverses, and the commands
`PHI`, `M`, `M8` and `SXOR` (R96 to R104, R133, R134); and what a round and a block do to one lane (R118, R125, R138). First
the rotation bit by bit and AND under XOR, then the laws of `phi` and `psi`, then `m` on two bytes and `m8` on lanes; then
the statements.
-/
namespace Sys2Proof.Machine

/-! ## The rotation, and AND under XOR (R95) -/

theorem rotl8_getLsbD_zero (b : Byte) : (rotl8 b).getLsbD 0 = b.getLsbD 7 := by
  rw [rotl8, BitVec.getLsbD_append]
  simp

theorem rotl8_getLsbD_succ (b : Byte) {k : Nat} (hk : k + 1 < 8) : (rotl8 b).getLsbD (k + 1) = b.getLsbD k := by
  rw [rotl8, BitVec.getLsbD_append]
  simp [Nat.lt_of_succ_lt_succ hk]

theorem rotl8_eq_rotateLeft (b : Byte) : rotl8 b = b.rotateLeft 1 := by
  refine BitVec.eq_of_getLsbD_eq fun k hk => ?_
  cases k with
  | zero => rw [rotl8_getLsbD_zero, BitVec.getLsbD_rotateLeft]; rfl
  | succ k => rw [rotl8_getLsbD_succ b hk, BitVec.getLsbD_rotateLeft]; simp [hk]

theorem rotl8_xor (a b : Byte) : rotl8 (a ^^^ b) = rotl8 a ^^^ rotl8 b := by
  simp only [rotl8, BitVec.extractLsb'_xor]
  exact BitVec.xor_append.symm

theorem rotl8_and (a b : Byte) : rotl8 (a &&& b) = rotl8 a &&& rotl8 b := by
  simp only [rotl8, BitVec.extractLsb'_and]
  exact BitVec.and_append.symm

theorem xor_and_distrib_right {n : Nat} (x y z : BitVec n) : (x ^^^ y) &&& z = (x &&& z) ^^^ (y &&& z) := by
  refine BitVec.eq_of_getLsbD_eq fun k _ => ?_
  simp only [BitVec.getLsbD_and, BitVec.getLsbD_xor, Bool.and_xor_distrib_right]

theorem and_xor_self_eq_and_not {n : Nat} (x y : BitVec n) : (x &&& y) ^^^ x = x &&& ~~~y := by
  ext k hk
  rw [BitVec.getElem_xor, BitVec.getElem_and, BitVec.getElem_and, BitVec.getElem_not]
  cases x[k] <;> simp

/-! ## `phi` and `psi` (R96, R104 (a), (b)) -/

/-- Where the mask and its rotation have no bit in common, the bits that are changed are never those that change others, so
changing twice restores the byte (R104 (a)). -/
theorem rotl8_and_xor_involutive {mask : Byte} (hmask : rotl8 mask &&& mask = 0#8) :
    Function.Involutive fun b => (rotl8 b &&& mask) ^^^ b := by
  intro b
  have hkept : rotl8 ((rotl8 b &&& mask) ^^^ b) &&& mask = rotl8 b &&& mask := by
    rw [rotl8_xor, rotl8_and, xor_and_distrib_right, BitVec.and_assoc, hmask, BitVec.and_zero, BitVec.zero_xor]
  calc (rotl8 ((rotl8 b &&& mask) ^^^ b) &&& mask) ^^^ ((rotl8 b &&& mask) ^^^ b)
      = (rotl8 b &&& mask) ^^^ ((rotl8 b &&& mask) ^^^ b) := by rw [hkept]
    _ = b := by rw [← BitVec.xor_assoc, BitVec.xor_self, BitVec.zero_xor]

theorem phi_involutive : Function.Involutive phi := rotl8_and_xor_involutive (by decide)

theorem psi_involutive : Function.Involutive psi := rotl8_and_xor_involutive (by decide)

theorem phi_xor (a b : Byte) : phi (a ^^^ b) = phi a ^^^ phi b := by
  rw [phi, phi, phi, rotl8_xor, xor_and_distrib_right]
  ac_rfl

/-- The half of the rotation that `phi` leaves out is the one that `psi` takes (R104 (b)). -/
theorem phi_xor_rotl8 (b : Byte) : phi b ^^^ rotl8 b = psi b := by
  rw [psi, ← and_xor_self_eq_and_not, phi]
  ac_rfl

/-- The mask keeps the odd positions. -/
theorem phiMask_getLsbD : ∀ k : Fin 8, phiMask.getLsbD k.val = decide (k.val % 2 = 1) := by decide

theorem phi_getLsbD (b : Byte) (k : Fin 8) : (phi b).getLsbD k.val =
    if k.val % 2 = 1 then b.getLsbD k.val ^^ b.getLsbD (k.val - 1) else b.getLsbD k.val := by
  rw [phi, BitVec.getLsbD_xor, BitVec.getLsbD_and, phiMask_getLsbD]
  by_cases hodd : k.val % 2 = 1
  · have hk : k.val = k.val - 1 + 1 := by omega
    rw [decide_eq_true hodd, Bool.and_true, if_pos hodd, Bool.xor_comm, hk, rotl8_getLsbD_succ b (by omega)]
    rfl
  · rw [decide_eq_false hodd, Bool.and_false, Bool.false_xor, if_neg hodd]

/-! ## `m` on two bytes (R97, R104 (c), R133) -/

theorem m_join (cfg : Config) (xl xr : Byte) :
    m cfg (xl ++ xr) = p cfg (phi xl ^^^ xr) ++ p cfg (rotl8 xl ^^^ xr) := by
  rw [m, left_join, right_join]

theorem mInv_join (cfg : Config) (a b : Byte) :
    mInv cfg (p cfg a ++ p cfg b) = psi (a ^^^ b) ++ (b ^^^ rotl8 (psi (a ^^^ b))) := by
  rw [mInv, left_join, right_join, p_involutive cfg a, p_involutive cfg b]

/-- `xr` cancels from the two bytes that `p` is given, which leaves `psi xl` (R104 (c)). -/
theorem mInv_m (cfg : Config) (h : Half) : mInv cfg (m cfg h) = h := by
  have hxl : (phi (left h) ^^^ right h) ^^^ (rotl8 (left h) ^^^ right h) = psi (left h) := by
    rw [← phi_xor_rotl8, BitVec.xor_comm (rotl8 _), ← BitVec.xor_assoc, ← eq_xor_of_eq_xor rfl]
  calc mInv cfg (m cfg h)
      = left h ++ ((rotl8 (left h) ^^^ right h) ^^^ rotl8 (left h)) := by rw [m, mInv_join, hxl, psi_involutive]
    _ = left h ++ right h := by rw [← eq_xor_of_eq_xor (BitVec.xor_comm _ _)]
    _ = h := join_halves h

theorem m_mInv (cfg : Config) (y : Half) : m cfg (mInv cfg y) = y := by
  let a := p cfg (left y)
  let b := p cfg (right y)
  let xl := psi (a ^^^ b)
  have hb : rotl8 xl ^^^ (b ^^^ rotl8 xl) = b := by
    rw [BitVec.xor_comm, ← eq_xor_of_eq_xor rfl]
  have ha : phi xl ^^^ (b ^^^ rotl8 xl) = a := by
    rw [BitVec.xor_comm b, ← BitVec.xor_assoc, phi_xor_rotl8, psi_involutive]
    exact (eq_xor_of_eq_xor rfl).symm
  calc m cfg (mInv cfg y)
      = m cfg (xl ++ (b ^^^ rotl8 xl)) := rfl
    _ = p cfg a ++ p cfg b := by rw [m_join, ha, hb]
    _ = left y ++ right y := by rw [p_involutive cfg (left y), p_involutive cfg (right y)]
    _ = y := join_halves y

/-! ## Lanes (R98, R134, R118 (b)) -/

theorem lane_m8 (cfg : Config) (w : Word) (q : Fin 4) : lane (m8 cfg w) q = m cfg (lane w q) := by
  rw [m8, lane_ofLanes]
  fin_cases q <;> rfl

theorem lane_m8Inv (cfg : Config) (w : Word) (q : Fin 4) : lane (m8Inv cfg w) q = mInv cfg (lane w q) := by
  rw [m8Inv, lane_ofLanes]
  fin_cases q <;> rfl

theorem m8Inv_m8 (cfg : Config) (w : Word) : m8Inv cfg (m8 cfg w) = w :=
  word_ext_lanes fun q => by rw [lane_m8Inv, lane_m8, mInv_m]

theorem m8_m8Inv (cfg : Config) (w : Word) : m8 cfg (m8Inv cfg w) = w :=
  word_ext_lanes fun q => by rw [lane_m8, lane_m8Inv, m_mInv]

theorem lane_cipherRound (cfg : Config) (x : Word) (q : Fin 4) :
    lane (cipherRound cfg x) q = m cfg (m cfg (lane x q) ^^^ lane cfg.C q) ^^^ lane cfg.CC q := by
  rw [cipherRound, sliceXor, lane_xor, lane_m8, sliceXor, lane_xor, lane_m8]

theorem lane_cipherRoundInv (cfg : Config) (y : Word) (q : Fin 4) :
    lane (cipherRoundInv cfg y) q = mInv cfg (mInv cfg (lane y q ^^^ lane cfg.CC q) ^^^ lane cfg.C q) := by
  rw [cipherRoundInv, lane_m8Inv, lane_xor, lane_m8Inv, lane_xor]

section
variable (cfg : Config) {q : Fin 4} {x x' : Word} {rk rk' : RoundKeys} (hx : lane x q = lane x' q)
  (hk : ∀ j (_ : j < 8), lane rk[j] q = lane rk'[j] q)
include hx hk

/-- Each round and each XOR with a subkey works lane by lane, so only lane `q` of the block and of the subkeys is read. -/
theorem lane_encryptWith_congr : lane (encryptWith cfg x rk) q = lane (encryptWith cfg x' rk') q := by
  simp only [encryptWith, lane_xor, lane_cipherRound, hx, hk]

theorem lane_decryptWith_congr : lane (decryptWith cfg x rk) q = lane (decryptWith cfg x' rk') q := by
  simp only [decryptWith, lane_xor, lane_cipherRoundInv, hx, hk]

end

theorem roundKeys_getElem (sk : Schedule) (j : Fin 8) : (roundKeys sk)[j.val] = sk[j.val] := by
  fin_cases j <;> rfl

/-! ## The statements -/

/-- Settles O33: on two bytes `m_inv` recovers the left byte through `psi` and then the right one; `m8` and `m8_inv` are `m` and
`m_inv` lane by lane. -/
theorem mAndM8AreBijections : Obligations.MAndM8AreBijections := fun cfg =>
  ⟨fun h => ⟨mInv_m cfg h, m_mInv cfg h⟩, fun w => ⟨m8Inv_m8 cfg w, m8_m8Inv cfg w⟩⟩

/-- Settles O38: the lane of a round is a function of that lane, and a block is rounds and XORs with the subkeys. -/
theorem lanesAreIndependent : Obligations.LanesAreIndependent := by
  intro cfg q x x' hx
  refine ⟨by rw [lane_cipherRound, lane_cipherRound, hx], fun sk sk' hsk => ?_⟩
  have hk : ∀ j (_ : j < 8), lane (roundKeys sk)[j] q = lane (roundKeys sk')[j] q := fun j hj => by
    rw [roundKeys_getElem sk ⟨j, hj⟩, roundKeys_getElem sk' ⟨j, hj⟩, hsk ⟨j, hj⟩]
  exact ⟨lane_encryptWith_congr cfg hx hk, lane_decryptWith_congr cfg hx hk⟩

/-- Settles O20: each command is one `respond`, of `phi` of the byte and of `m` of the two bytes with zeros above, and of `m8` of
the word. -/
theorem phiMAndM8AnswerInEveryState : Obligations.PhiMAndM8AnswerInEveryState := by
  refine fun s => ⟨fun x => ?phi, fun xl xr => ?m,
    fun w => ⟨m8 config w, respond_eq_next (m8 config w) s, lane_m8 config w⟩⟩
  case phi =>
    rw [← rotl8_eq_rotateLeft, ← resByte_eq_append, ← respond_eq_next]
    rfl
  case m =>
    have hres : resHalf (m config (halfOperand xl xr)) =
        0#48 ++ p config (phi xl ^^^ xr) ++ p config (rotl8 xl ^^^ xr) := by
      rw [halfOperand, m_join, resHalf_eq_append, BitVec.append_assoc, BitVec.cast_eq]
    rw [← rotl8_eq_rotateLeft, ← phiMask, ← phi, ← hres, ← respond_eq_next]
    rfl

/-- Settles O21: the command is one `respond` of the XOR, which goes byte by byte. -/
theorem sxorAnswersTheXor : Obligations.SxorAnswersTheXor := fun s a b =>
  ⟨sliceXor a b, respond_eq_next (sliceXor a b) s, byte_xor a b⟩

/-- Settles O32: `phi` takes the odd bits of the rotation and `psi` the even ones, and neither reads a bit it changes. -/
theorem phiBitByBit : Obligations.PhiBitByBit :=
  ⟨phi_getLsbD, phi_involutive, phi_xor, phi_xor_rotl8, psi_involutive⟩

/-- Settles O34: the laws are those of the XOR of bit vectors. -/
theorem sliceXorLaws : Obligations.SliceXorLaws :=
  ⟨fun _ _ => rfl, byte_xor, BitVec.xor_comm, BitVec.xor_assoc, fun _ => ⟨BitVec.xor_self, BitVec.xor_zero⟩⟩

end Sys2Proof.Machine
end

section
/-!
PROOFS. The family 43_key_schedule.md: the key schedule for any tables, and the commands `KEYLD` and `RDSK` (R105 to R110).
First the schedule as one sequence that begins with the master key, its recurrence, and the recurrence run backwards; then
the statements.
-/
namespace Sys2Proof.Machine

/-! ## The schedule as one sequence (R105, R107) -/

/-- R105's sequence `s` from index -2 on: the two halves of the master key, then the nine subkeys; places
after the last subkey hold zero and no lemma speaks of them. -/
def scheduleWord (cfg : Config) (k1 k2 : Word) : Nat → Word
  | 0 => k2
  | 1 => k1
  | i + 2 => (keysched cfg k1 k2).getD i 0#64

section
variable (cfg : Config) {k1 k2 k1' k2' : Word}

theorem scheduleWord_subkey {i : Nat} (hi : i < 9) :
    scheduleWord cfg k1 k2 (i + 2) = (keysched cfg k1 k2)[i] :=
  dif_pos hi

/-- Every subkey by the one recurrence: `sk[0]` and `sk[1]` are no exception once the key stands before them. -/
theorem scheduleWord_recurrence (i : Fin 9) :
    scheduleWord cfg k1 k2 (i.val + 2) =
      scheduleWord cfg k1 k2 i.val ^^^ g cfg (scheduleWord cfg k1 k2 (i.val + 1)) cfg.CI[i] := by
  fin_cases i <;> rfl

/-- A step of the recurrence is undone by XORing the same `g` once more (R107). -/
theorem scheduleWord_recurrence_backward (i : Fin 9) :
    scheduleWord cfg k1 k2 i.val =
      scheduleWord cfg k1 k2 (i.val + 2) ^^^ g cfg (scheduleWord cfg k1 k2 (i.val + 1)) cfg.CI[i] :=
  eq_xor_of_eq_xor (scheduleWord_recurrence cfg i)

/-- Two sequences that agree at two consecutive places agree at every place before them, so at the master key. -/
theorem key_eq_of_scheduleWord_eq (n : Nat) (hn : n ≤ 9) (h : scheduleWord cfg k1 k2 n = scheduleWord cfg k1' k2' n)
    (hnext : scheduleWord cfg k1 k2 (n + 1) = scheduleWord cfg k1' k2' (n + 1)) : k1 = k1' ∧ k2 = k2' := by
  induction n with
  | zero => exact ⟨hnext, h⟩
  | succ n ih =>
    have hprev : scheduleWord cfg k1 k2 n = scheduleWord cfg k1' k2' n := by
      rw [scheduleWord_recurrence_backward cfg ⟨n, hn⟩, scheduleWord_recurrence_backward cfg ⟨n, hn⟩, h, hnext]
    exact ih (Nat.le_of_succ_le hn) hprev h

end

/-! ## `RDSK` of a legal index (R109) -/

theorem execOf_rdsk_of_key (cfg : Config) {idx : Nib} {s : State} {v : Word} (hidx : legalIndex idx = true)
    (hkv : s.status.kv = true) (hread : readSubkey idx s = some v) : execOf cfg (.rdsk idx) s = respond v s :=
  (if_pos hidx).trans (withKey_of_key id hkv hread)

/-! ## The statements -/

/-- Settles O36: the recurrence runs backwards from any two consecutive subkeys down to the master key. -/
theorem twoSubkeysDetermineTheKey : Obligations.TwoSubkeysDetermineTheKey := by
  intro cfg k1 k2 k1' k2' i h hnext
  have hi : i.val < 9 := by omega
  have hi' : i.val + 1 < 9 := by omega
  rw [← scheduleWord_subkey cfg hi, ← scheduleWord_subkey cfg hi] at h
  rw [← scheduleWord_subkey cfg hi', ← scheduleWord_subkey cfg hi'] at hnext
  exact key_eq_of_scheduleWord_eq cfg (i.val + 2) (by omega) h hnext

/-- Settles O23: without a key the command is one `respond` of 0 after `writeKeys`. -/
theorem keyldLoadsTheKey : Obligations.KeyldLoadsTheKey := by
  intro s k1 k2 hkv
  rw [exec_eq_execOf, execOf_keyld_of_no_key config k1 k2 hkv, writeKeys_eq, respond_eq_next]

/-- Settles O25: with a key and a legal index the command is one `respond` of the register it reads. -/
theorem rdskAnswersTheSubkey : Obligations.RdskAnswersTheSubkey := by
  intro s idx hidx v hkv hv
  have hread : readSubkey idx s = some v := (readSubkey_of_legal hidx s).trans hv
  rw [exec_eq_execOf, execOf_rdsk_of_key config (decide_eq_true (Nat.le_of_lt_succ hidx)) hkv hread, respond_eq_next]

/-- Settles O35: the sequence is `scheduleWord`, and `g` is `t` of `p8` of the XOR. -/
theorem keyScheduleRecurrence : Obligations.KeyScheduleRecurrence := fun cfg k1 k2 =>
  ⟨scheduleWord cfg k1 k2, rfl, rfl, fun i => scheduleWord_subkey cfg i.isLt, scheduleWord_recurrence cfg⟩

end Sys2Proof.Machine
end

section
/-!
PROOFS. The family 44_round_transform.md: `round`, its inverse and the command `RND` (R115, R117, R118, R135). Each of the two
functions as one formula, then the inversion on both sides; then the statements.
-/
namespace Sys2Proof.Machine

/-! ## `round` and its inverse (R115, R135) -/

theorem cipherRound_eq (cfg : Config) (x : Word) : cipherRound cfg x = m8 cfg (m8 cfg x ^^^ cfg.C) ^^^ cfg.CC := rfl

theorem cipherRoundInv_eq (cfg : Config) (y : Word) :
    cipherRoundInv cfg y = m8Inv cfg (m8Inv cfg (y ^^^ cfg.CC) ^^^ cfg.C) := rfl

/-- `CC` cancels first, then the outer `m8`, then `C`, then the inner `m8`. -/
theorem cipherRoundInv_cipherRound (cfg : Config) (x : Word) : cipherRoundInv cfg (cipherRound cfg x) = x := by
  rw [cipherRoundInv_eq, cipherRound_eq, ← eq_xor_of_eq_xor rfl, m8Inv_m8, ← eq_xor_of_eq_xor rfl, m8Inv_m8]

theorem cipherRound_cipherRoundInv (cfg : Config) (y : Word) : cipherRound cfg (cipherRoundInv cfg y) = y := by
  rw [cipherRound_eq, cipherRoundInv_eq, m8_m8Inv, ← eq_xor_of_eq_xor rfl, m8_m8Inv, ← eq_xor_of_eq_xor rfl]

/-! ## The statements -/

/-- Settles O37: `m8` and `m8_inv` undo each other on both sides, and each constant cancels itself. -/
theorem roundIsABijection : Obligations.RoundIsABijection := fun cfg x =>
  ⟨cipherRoundInv_cipherRound cfg x, cipherRound_cipherRoundInv cfg x⟩

/-- Settles O22: the command is one `respond` of the round of its operand, which reads no key. -/
theorem rndAnswersTheRound : Obligations.RndAnswersTheRound := by
  intro s w
  rw [← cipherRound_eq, ← respond_eq_next]
  rfl

end Sys2Proof.Machine
end

section
/-!
PROOFS. The family 45_block_pipeline.md: encryption of one block as a recurrence, the command `ENC`, and the streams `ENCS`
and `DECS` (R120 to R124, R139). First the block before each round, then a stream of commands that are all answered; then the
statements.
-/
namespace Sys2Proof.Machine

open Sys2Proof.Safety

/-! ## The rounds of one block as a recurrence (R120) -/

/-- R120's `m(r)`, the block before round `r + 1`. A round past the schedule's end would take a zero subkey, and no lemma speaks
of it. -/
def blockBeforeRound (cfg : Config) (b : Word) (sk : Schedule) : Nat → Word
  | 0 => b
  | r + 1 => cipherRound cfg (blockBeforeRound cfg b sk r ^^^ sk[r]?.getD 0#64)

section
variable (cfg : Config) (b : Word) (sk : Schedule)

theorem blockBeforeRound_succ {r : Nat} (hr : r < 9) :
    blockBeforeRound cfg b sk (r + 1) = cipherRound cfg (blockBeforeRound cfg b sk r ^^^ sk[r]) := by
  rw [blockBeforeRound, Vector.getElem?_eq_getElem hr, Option.getD_some]

/-- The seven named lines of `encrypt_block` are the first seven steps of the recurrence; `sk[8]` takes no part (R124). -/
theorem encryptBlock_eq : encryptBlock cfg b sk = blockBeforeRound cfg b sk 7 ^^^ sk[7] := by
  simp [encryptBlock, encryptWith, roundKeys, blockBeforeRound]

end

/-! ## A stream of commands that are all answered (R122, R123) -/

/-- An answer leaves the key registers as they are, so where a loaded key is enough for `command` to be answered with `result` of
its operand, every block of the stream is, wherever it stands. -/
theorem blockStream_of_answered {cfg : Config} {command : Word → Instr} {result : Word → Word} {sk : Schedule}
    (hissue : ∀ (w : Word) {s : State}, s.status.kv = true → HoldsRoundKeys s sk →
      issue cfg (command w) s = respond (result w) s)
    (ws : List Word) {s : State} (hkv : s.status.kv = true) (hsk : HoldsRoundKeys s sk) :
    blockStream cfg command ws s =
      .next { s with responses := s.responses ++ ws.map fun w => { fc := 0#4, res := result w } } := by
  induction ws generalizing s with
  | nil => simp [blockStream]
  | cons w ws ih =>
    have hrest : blockStream cfg command (w :: ws) s =
        blockStream cfg command ws (answer { fc := 0#4, res := result w } s) := by
      simp [blockStream, hissue w hkv hsk, respond_eq, goOn]
    rw [hrest, List.map_cons, List.append_cons]
    exact ih (s := answer { fc := 0#4, res := result w } s) hkv hsk

/-! ## The statements -/

/-- Settles O54: with a key loaded each `ENC` and each `DEC` is answered with the function of its own block, and neither
writes a register. -/
theorem streamsAnswerEachBlock : Obligations.StreamsAnswerEachBlock := by
  intro cfg ws s sk hkv hsk
  constructor
  · refine blockStream_of_answered (fun w s hkv hsk => ?_) ws hkv hsk
    rw [issue_of_wellFormed cfg rfl, execOf_enc_of_key cfg w hkv hsk]
  · refine blockStream_of_answered (fun w s hkv hsk => ?_) ws hkv hsk
    rw [issue_of_wellFormed cfg rfl, execOf_dec_of_key cfg w hkv hsk]

/-- Settles O26: with `SK[0]` to `SK[7]` written the command is one `respond` of the encrypted block. -/
theorem encAnswersTheCiphertext : Obligations.EncAnswersTheCiphertext := by
  intro s w sk hkv hsk
  rw [exec_eq_execOf, execOf_enc_of_key config w hkv hsk, respond_eq_next]

/-- Settles O39: the sequence is `blockBeforeRound`. -/
theorem encryptionIsSevenRoundsAndAWhitening : Obligations.EncryptionIsSevenRoundsAndAWhitening := fun cfg b sk =>
  ⟨blockBeforeRound cfg b sk, rfl, fun r => blockBeforeRound_succ cfg b sk (by omega), encryptBlock_eq cfg b sk⟩

end Sys2Proof.Machine
end

section
/-!
PROOFS. The family 46_decrypt.md: decryption of one block, the command `DEC`, and the two sessions (R130 to R138, R70, R172).
First one round undone and with it the whole block, then what a session leaves and writes; then the statements.
-/
namespace Sys2Proof.Machine

open Sys2Proof.Safety

/-! ## One block (R130, R136) -/

section
variable (cfg : Config)

theorem cipherRoundInv_xor_kround (x k : Word) : cipherRoundInv cfg (kround cfg x k) ^^^ k = x := by
  rw [kround, cipherRoundInv_cipherRound, ← eq_xor_of_eq_xor rfl]

theorem kround_cipherRoundInv_xor (y k : Word) : kround cfg (cipherRoundInv cfg y ^^^ k) k = y := by
  rw [kround, ← eq_xor_of_eq_xor rfl, cipherRound_cipherRoundInv]

theorem encryptWith_eq_krounds (b : Word) (rk : RoundKeys) : encryptWith cfg b rk =
    kround cfg (kround cfg (kround cfg (kround cfg (kround cfg (kround cfg (kround cfg b
      rk[0]) rk[1]) rk[2]) rk[3]) rk[4]) rk[5]) rk[6] ^^^ rk[7] := rfl

/-- The whitening cancels, and then each round is undone by its inverse and its own subkey, the last round first. -/
theorem decryptWith_encryptWith (b : Word) (rk : RoundKeys) : decryptWith cfg (encryptWith cfg b rk) rk = b := by
  simp only [decryptWith, encryptWith_eq_krounds, ← eq_xor_of_eq_xor rfl, cipherRoundInv_xor_kround]

theorem encryptWith_decryptWith (y : Word) (rk : RoundKeys) : encryptWith cfg (decryptWith cfg y rk) rk = y := by
  simp only [decryptWith, encryptWith_eq_krounds, kround_cipherRoundInv_xor, ← eq_xor_of_eq_xor rfl]

theorem decryptBlock_encryptBlock (b : Word) (sk : Schedule) : decryptBlock cfg (encryptBlock cfg b sk) sk = b :=
  decryptWith_encryptWith cfg b (roundKeys sk)

theorem encryptBlock_decryptBlock (y : Word) (sk : Schedule) : encryptBlock cfg (decryptBlock cfg y sk) sk = y :=
  encryptWith_decryptWith cfg y (roundKeys sk)

end

/-! ## A session (R70, R172) -/

/-- All nine subkey registers written are more than the block path needs. -/
theorem holdsRoundKeys_of_written {s : State} {sk : Schedule} (h : ∀ i : Fin 9, s.sk[i] = some sk[i]) :
    HoldsRoundKeys s sk :=
  ⟨h 0, h 1, h 2, h 3, h 4, h 5, h 6, h 7⟩

/-- What a session with the master key `k1`, `k2` leaves of `s` when its block commands answer `results`: the block reset with
the key loaded, and the answer to the `KEYLD` before those to the blocks. -/
def afterSession (cfg : Config) (k1 k2 : Word) (results : List Word) (s : State) : State :=
  { s with
    k1 := some k1
    k2 := some k2
    sk := (keysched cfg k1 k2).map some
    status := { kv := true, flt := false, fc := 0#4 }
    responses := s.responses ++ { fc := 0#4, res := 0#64 } :: results.map fun w => { fc := 0#4, res := w } }

theorem issueReset_eq (cfg : Config) (s : State) : issueReset cfg s = .next (resetBlock s) :=
  stepBy_of_reset (execOf cfg) (present_pending .reset s)

/-- Reset has cleared `KV`, so the `KEYLD` is answered and not locked out. -/
theorem issue_keyld_after_reset (cfg : Config) (k1 k2 : Word) (s : State) :
    issue cfg (.keyld k1 k2) (resetBlock s) = .next (afterSession cfg k1 k2 [] s) := by
  rw [issue_of_wellFormed cfg rfl, execOf_keyld_of_no_key cfg k1 k2 rfl, writeKeys_eq]
  rfl

theorem afterSession_holdsRoundKeys (cfg : Config) (k1 k2 : Word) (results : List Word) (s : State) :
    HoldsRoundKeys (afterSession cfg k1 k2 results s) (keysched cfg k1 k2) :=
  holdsRoundKeys_of_written fun i => Vector.getElem_map some i.isLt

/-- Where a loaded key is enough for `command` to be answered, the session completes and answers every block. -/
theorem session_of_answered {cfg : Config} {command : Word → Instr} {result : Word → Word} {k1 k2 : Word}
    {kb input : List Byte} {ws : List Word} (hkey : keyldb kb = .ok (.keyld k1 k2)) (hws : blocksOfBytes input = .ok ws)
    (hissue : ∀ (w : Word) {s : State}, s.status.kv = true → HoldsRoundKeys s (keysched cfg k1 k2) →
      issue cfg (command w) s = respond (result w) s) (s : State) :
    session cfg command kb input s = .ok (.next (afterSession cfg k1 k2 (ws.map result) s)) := by
  have hloaded : lastFaulted (afterSession cfg k1 k2 [] s) = false := by simp [afterSession, lastFaulted]
  have hstream : blockStream cfg command ws (afterSession cfg k1 k2 [] s) =
      .next (afterSession cfg k1 k2 (ws.map result) s) := by
    rw [blockStream_of_answered hissue ws rfl (afterSession_holdsRoundKeys cfg k1 k2 [] s)]
    simp [afterSession]
  simp [session, hkey, hws, issueReset_eq, goOn, issue_keyld_after_reset, hloaded, hstream]

section
variable {cfg : Config} {k1 k2 : Word} {kb input : List Byte} {ws : List Word}
  (hkey : keyldb kb = .ok (.keyld k1 k2)) (hws : blocksOfBytes input = .ok ws) (s : State)
include hkey hws

theorem encryptSession_eq : encryptSession cfg kb input s =
    .ok (.next (afterSession cfg k1 k2 (ws.map (encryptBlock cfg · (keysched cfg k1 k2))) s)) :=
  session_of_answered hkey hws (fun w _ hkv hsk =>
    (issue_of_wellFormed cfg rfl _).trans (execOf_enc_of_key cfg w hkv hsk)) s

theorem decryptSession_eq : decryptSession cfg kb input s =
    .ok (.next (afterSession cfg k1 k2 (ws.map (decryptBlock cfg · (keysched cfg k1 k2))) s)) :=
  session_of_answered hkey hws (fun w _ hkv hsk =>
    (issue_of_wellFormed cfg rfl _).trans (execOf_dec_of_key cfg w hkv hsk)) s

end

/-- The host writes the bytes of the blocks' results; the answer to the `KEYLD` stands before them. -/
theorem outputBytes_afterSession (cfg : Config) (k1 k2 : Word) (results : List Word) (s : State) :
    outputBytes (s.responses.length + 1) (afterSession cfg k1 k2 results s) = bytesOfBlocks results := by
  have hdrop : (afterSession cfg k1 k2 results s).responses.drop (s.responses.length + 1) =
      results.map fun w => { fc := 0#4, res := w } := List.drop_length_add_append 1
  simp [outputBytes, hdrop, List.filter_map, Function.comp_def]

/-- The bytes of blocks are cut into the same blocks (R48). -/
theorem blocksOfBytes_bytesOfBlocks (ws : List Word) : blocksOfBytes (bytesOfBlocks ws) = .ok ws := by
  induction ws with
  | nil => rfl
  | cons w ws ih => simp [bytesOfWord, blocksOfBytes, ih, word_bytes]

/-! ## The statements -/

/-- Settles O40: each of the seven rounds and the whitening are undone, on both sides. -/
theorem decryptionInvertsEncryption : Obligations.DecryptionInvertsEncryption := fun cfg sk b =>
  ⟨decryptBlock_encryptBlock cfg b sk, encryptBlock_decryptBlock cfg b sk⟩

/-- Settles O50: the answer to the `ENC` leaves the key loaded, so the `DEC` decrypts under the same schedule. -/
theorem encThenDecAnswersTheBlock : Obligations.EncThenDecAnswersTheBlock := by
  rintro cfg s w ⟨hkv, k1, k2, -, -, hwritten⟩
  have hsk : HoldsRoundKeys s (keysched cfg k1 k2) := holdsRoundKeys_of_written hwritten
  let c := encryptBlock cfg w (keysched cfg k1 k2)
  let s1 := answer { fc := 0#4, res := c } s
  have hdec : execOf cfg (.dec c) s1 = respond w s1 := by
    rw [execOf_dec_of_key cfg c (s := s1) hkv hsk, decryptBlock_encryptBlock]
  exact ⟨c, s1, _, execOf_enc_of_key cfg w hkv hsk, rfl, hdec, rfl⟩

/-- Settles O58: the bytes of the encrypted blocks are cut into those blocks again, and each is decrypted under the schedule that
encrypted it. -/
theorem decryptSessionRecoversTheInput : Obligations.DecryptSessionRecoversTheInput := by
  intro cfg kb input s u hkb hinput
  obtain ⟨k1, k2, hkey, -⟩ := keyldb_of_length_le hkb
  obtain ⟨ws, hws, rfl⟩ := blocksOfBytes_of_whole hinput
  let cs := ws.map (encryptBlock cfg · (keysched cfg k1 k2))
  have hplain : cs.map (decryptBlock cfg · (keysched cfg k1 k2)) = ws := by
    simp [cs, Function.comp_def, decryptBlock_encryptBlock]
  have hdec : decryptSession cfg kb (bytesOfBlocks cs) u = .ok (.next (afterSession cfg k1 k2 ws u)) := by
    rw [decryptSession_eq hkey (blocksOfBytes_bytesOfBlocks cs) u, hplain]
  refine ⟨k1, k2, ws, afterSession cfg k1 k2 cs s, afterSession cfg k1 k2 ws u, hkey, hws,
    encryptSession_eq hkey hws s, ?state, ?length, ?decrypts, rfl, outputBytes_afterSession cfg k1 k2 ws u⟩
  case state => simp [afterSession, cs]
  case length => rw [outputBytes_afterSession, bytesOfBlocks_length, bytesOfBlocks_length, List.length_map]
  case decrypts => rw [outputBytes_afterSession, hdec]

/-- Settles O27: with `SK[0]` to `SK[7]` written the command is one `respond` of the decrypted block. -/
theorem decAnswersThePlaintext : Obligations.DecAnswersThePlaintext := by
  intro s w sk hkv hsk
  rw [exec_eq_execOf, execOf_dec_of_key config w hkv hsk, respond_eq_next]

end Sys2Proof.Machine
end

section
/-!
PROOFS. The families 47_system_commands.md, 60_exceptions.md, 70_reset_and_hazards.md and the default instance: `NOP` and `RDST`,
the fault record, runs, reset (R140, R141, R156 to R158, R166, R170, R177). First the status word by its fields, then that a
command word is answered with code 0 or by one fault, then what a run keeps; then the statements.
-/
namespace Sys2Proof.Machine

open Sys2Proof.Safety

/-! ## The status word (R23, R141) -/

/-- The fields of the status word, from bit 63 down to bit 0. -/
theorem statusWord_eq_append (st : Status) :
    statusWord st = 0#58 ++ (st.fc ++ BitVec.ofBool st.flt ++ BitVec.ofBool st.kv) :=
  BitVec.setWidth_eq_append (by decide)

theorem statusWord_kv (st : Status) : (statusWord st).getLsbD 0 = st.kv := by
  rw [statusWord, BitVec.getLsbD_setWidth, BitVec.append_ofBool, BitVec.getLsbD_concat_zero]
  rfl

theorem statusWord_flt (st : Status) : (statusWord st).getLsbD 1 = st.flt := by
  rw [statusWord, BitVec.getLsbD_setWidth, BitVec.append_ofBool, BitVec.getLsbD_concat_succ, BitVec.append_ofBool,
    BitVec.getLsbD_concat_zero]
  rfl

theorem statusWord_fc (st : Status) : (statusWord st).extractLsb' 2 4 = st.fc := by
  rw [statusWord_eq_append, BitVec.extractLsb'_append_eq_of_add_le (by decide),
    BitVec.extractLsb'_append_eq_of_le (by decide), BitVec.extractLsb'_append_eq_left]

theorem statusWord_zero_above (st : Status) : (statusWord st).extractLsb' 6 58 = 0#58 := by
  rw [statusWord_eq_append, BitVec.extractLsb'_append_eq_left]

/-- The status word as R141 writes it, the two flags as the numbers 0 and 1. -/
theorem statusWord_eq_ofNat (st : Status) :
    statusWord st = BitVec.ofNat 64 ((st.flt.toNat <<< 1) ||| (st.fc.toNat <<< 2) ||| st.kv.toNat) := by
  rw [statusWord, ← BitVec.ofNat_toNat, BitVec.toNat_append, BitVec.toNat_append, BitVec.toNat_ofBool,
    BitVec.toNat_ofBool, Nat.shiftLeft_or_distrib, ← Nat.shiftLeft_add, Nat.or_comm (st.fc.toNat <<< 2)]

/-! ## A command word is answered with code 0 or by one fault (R157) -/

/-- The two states hold the same fault record and the same responses. -/
structure SameFaultRecord (s s' : State) : Prop where
  flt : s'.status.flt = s.status.flt
  fc : s'.status.fc = s.status.fc
  responses : s'.responses = s.responses

theorem exec_responds_or_raises (i : Instr) (s : State) :
    (∃ v u, SameFaultRecord s u ∧ exec i s = respond v u) ∨ ∃ c, exec i s = raise c s := by
  obtain ⟨v, he⟩ | ⟨k1, k2, -, -, he⟩ | ⟨c, he⟩ := exec_cases i s
  · exact .inl ⟨v, s, ⟨rfl, rfl, rfl⟩, he⟩
  · exact .inl ⟨0#64, writeKeys k1 k2 (keysched config k1 k2) s, ⟨rfl, rfl, rfl⟩, he⟩
  · exact .inr ⟨c, he⟩

/-- The step on a command word, legal or not: an answer of code 0 that leaves the fault record alone, or one fault. -/
theorem step_responds_or_raises {s : State} {cw : CommandWord} {rest : List HostMove}
    (hp : s.pending = .command cw :: rest) :
    (∃ v u, SameFaultRecord s u ∧ step s = respond v u) ∨ ∃ c, step s = raise c (takeMove rest s) := by
  cases hd : decode cw with
  | error c => exact .inr ⟨c, stepBy_of_illFormed exec hp hd⟩
  | ok i =>
    rw [step, stepBy_of_command exec hp hd]
    obtain ⟨v, u, ⟨hflt, hfc, hresponses⟩, he⟩ | hraise := exec_responds_or_raises i (takeMove rest s)
    · exact .inl ⟨v, u, ⟨hflt, hfc, hresponses⟩, he⟩
    · exact .inr hraise

/-- Settles O13: an answer of code 0 leaves the fault record alone, and a fault is `raise`, which writes nothing else. -/
theorem faultChangesOnlyTheFaultRecord : Obligations.FaultChangesOnlyTheFaultRecord := by
  intro s s' cw rest hp h
  obtain ⟨v, u, ⟨hflt, hfc, hresponses⟩, he⟩ | ⟨c, he⟩ := step_responds_or_raises hp
  · cases he.symm.trans h
    refine ⟨{ fc := 0#4, res := v }, ?_, fun hne => absurd rfl hne, fun _ => ⟨hflt, hfc⟩⟩
    rw [answer_responses, hresponses]
  · cases he.symm.trans h
    exact ⟨_, rfl, fun _ => ⟨rfl, rfl, rfl, rfl, rfl, rfl, rfl⟩, fun h0 => absurd h0 (faultCode_ne_zero c)⟩

/-- The word of a legal `RDSK` without a key is answered by `NO_KEY` (R31, R71 step 4). -/
theorem step_rdsk_of_no_key {s : State} {cw : CommandWord} {rest : List HostMove} {idx : Nib}
    (hp : s.pending = .command cw :: rest) (hd : decode cw = .ok (.rdsk idx)) (hidx : legalIndex idx = true)
    (hkv : s.status.kv = false) : step s = raise .noKey (takeMove rest s) := by
  rw [step, stepBy_of_command exec hp hd, exec_eq_execOf]
  exact execOf_rdsk_of_no_key config hidx hkv

/-! ## Runs (R177) -/

theorem run_succ_of_step {M : Host.Core} {s u : M.State} (h : M.step s = .next u) (n : Nat) :
    M.run (n + 1) s = M.run n u := by
  rw [Host.Core.run, h]

/-- What every step keeps, a run of any length keeps. -/
theorem core_run_keeps {I : State → Prop} (hstep : ∀ s u, I s → step s = .next u → I u) (n : Nat) {s s' : State}
    (hs : I s) (hrun : core.run n s = .next s') : I s' := by
  induction n generalizing s with
  | zero =>
    cases hrun
    exact hs
  | succ n ih =>
    obtain ⟨u, hu⟩ := step_completes s
    exact ih (hstep s u hs hu) ((run_succ_of_step (M := core) hu n).symm.trans hrun)

/-- The invariant of a run without a reset: it is good so far exactly when no fault is recorded, and no reset is to come. -/
def GoodUnlessFaulted (s : State) : Prop :=
  (GoodRun s ↔ s.status.flt = false) ∧ HostMove.reset ∉ s.pending

theorem goodRun_append_iff {s s' : State} {r : Response} (h : s'.responses = s.responses ++ [r]) :
    GoodRun s' ↔ GoodRun s ∧ r.fc = 0#4 := by
  simp [GoodRun, h, or_imp, forall_and]

/-- An answer of code 0 changes neither side of the equivalence; a fault makes both sides false. -/
theorem step_keeps_goodUnlessFaulted (s s' : State) (hs : GoodUnlessFaulted s) (h : step s = .next s') :
    GoodUnlessFaulted s' := by
  obtain ⟨hgood, hreset⟩ := hs
  match hp : s.pending with
  | [] =>
    cases (stepBy_of_idle exec hp).symm.trans h
    exact ⟨hgood, hreset⟩
  | .reset :: rest => exact absurd (hp ▸ List.mem_cons_self) hreset
  | .command cw :: rest =>
    obtain ⟨u, -, hu, hpending, -⟩ := answersOnce_step hp
    cases hu.symm.trans h
    obtain ⟨r, hresponses, hfault, hanswer⟩ := faultChangesOnlyTheFaultRecord s s' cw rest hp h
    have hpending' : s'.pending = rest := hpending
    refine ⟨?_, fun hmem => hreset (hp ▸ List.mem_cons_of_mem _ (hpending' ▸ hmem))⟩
    rw [goodRun_append_iff hresponses]
    by_cases h0 : r.fc = 0#4
    · simp [h0, hgood, (hanswer h0).1]
    · obtain ⟨-, -, -, -, -, hflt, -⟩ := hfault h0
      simp [h0, hflt]

/-! ## The statements -/

/-- Settles O17: with no fault recorded the status word is `KV` alone; with one it is R141's formula, `FC` being legal. -/
theorem rdstResultsAreTheListedOnes : Obligations.RdstResultsAreTheListedOnes := by
  intro s hrec
  refine ⟨statusWord s.status, _, rfl, rfl, ?_⟩
  rw [statusWord_eq_ofNat]
  obtain ⟨hflt, hfc⟩ | ⟨hflt, hlow, hhigh⟩ := hrec
  · rw [hflt, hfc]
    cases s.status.kv with
    | false => exact .inl rfl
    | true => exact .inr (.inl rfl)
  · rw [hflt]
    exact .inr (.inr ⟨s.status.fc.toNat, s.status.kv.toNat, hlow, hhigh, Bool.toNat_le _, rfl⟩)

/-- Settles O46: where a fault is recorded, an answer of code 0 leaves the record alone and a fault keeps the first code. -/
theorem onlyResetClearsTheFaultRecord : Obligations.OnlyResetClearsTheFaultRecord := by
  intro s s' hflt hreset h
  match hp : s.pending with
  | [] =>
    cases (stepBy_of_idle exec hp).symm.trans h
    exact ⟨hflt, rfl⟩
  | .reset :: rest => exact absurd hp (hreset rest)
  | .command cw :: rest =>
    obtain ⟨r, -, hfault, hanswer⟩ := faultChangesOnlyTheFaultRecord s s' cw rest hp h
    by_cases h0 : r.fc = 0#4
    · obtain ⟨hflt', hfc⟩ := hanswer h0
      exact ⟨hflt'.trans hflt, hfc⟩
    · obtain ⟨-, -, -, -, -, hflt', hfc⟩ := hfault h0
      exact ⟨hflt', hfc.trans (if_pos hflt)⟩

/-- Settles O51: the equivalence and the absence of a reset are kept by every step, hence by every run. -/
theorem goodRunIsNoFaultRecorded : Obligations.GoodRunIsNoFaultRecorded := fun n _ _ hgood hreset hrun =>
  (core_run_keeps step_keeps_goodUnlessFaulted n ⟨hgood, hreset⟩ hrun).1

/-- Settles O15: `NOP` is one `respond` of 0. -/
theorem nopAnswersZero : Obligations.NopAnswersZero := fun s => respond_eq_next 0#64 s

/-- Settles O16: `RDST` is one `respond` of the status word, whose fields are those of `STATUS`. -/
theorem rdstAnswersTheStatus : Obligations.RdstAnswersTheStatus := fun s =>
  ⟨statusWord s.status, respond_eq_next _ s, statusWord_kv _, statusWord_flt _, statusWord_fc _, statusWord_zero_above _⟩

/-- Settles O14: the must-be-zero bit and then the index are refused by the decoder, and a legal index meets the missing key. -/
theorem rdskFaultOrder : Obligations.RdskFaultOrder := by
  intro s hkv
  exact ⟨⟨_, step_of_decode_error rfl (c := .reservedOperand) (by decide), rfl⟩,
    ⟨_, step_of_decode_error rfl (c := .badIndex) (by decide), rfl⟩,
    ⟨_, step_rdsk_of_no_key rfl (idx := 8#4) (by decide) (by decide) hkv, rfl⟩⟩

/-- Settles O10: the reset move takes every field of the block to its reset value and leaves the host's side. -/
theorem resetMoveResetsTheBlock : Obligations.ResetMoveResetsTheBlock := fun _ _ hp => stepBy_of_reset exec hp

/-- Settles O11: with no move pending the step is idle. -/
theorem stepWithoutAMoveHoldsTheState : Obligations.StepWithoutAMoveHoldsTheState := fun _ hp => stepBy_of_idle exec hp

/-- Settles O59: each command under the default tables is that of `exec`, so the steps and the machines agree. -/
theorem machineIsTheDefaultInstance : Obligations.MachineIsTheDefaultInstance := by
  refine ⟨exec_eq_execOf, step_eq_stepOf, ?_⟩
  rw [core, coreOf, funext step_eq_stepOf]

end Sys2Proof.Machine
end
